-- ==== Sys2Proof/Word.lean ====
section
/-! DEFINITION. The word types of the machine (spec 10_state.md, 30_encoding.md R80, R81).
Everything here is what the spec treats as bits. -/

namespace Sys2Proof

/-- One memory cell, one `V` register, one timer, one immediate `kk` (R20, R24, R25, R27). -/
abbrev Byte := BitVec 8

/-- `PC`, `I`, a stack slot, an instruction word (R22, R23, R26, R80). -/
abbrev Word := BitVec 16

/-- A register field `x` or `y` (R81): every one of its 16 values names a register (R20). -/
abbrev Reg := BitVec 4

/-- The immediate `n` of Dxyn (R81, R83): a count from 0 to 15. -/
abbrev Nibble := BitVec 4

/-- The immediate `nnn` (R81, R83): an absolute byte address from 0 to 4095. -/
abbrev Addr := BitVec 12

/-- `VF`, the register that doubles as the flag (R21). -/
abbrev regF : Reg := 0xF#4

end Sys2Proof
end

