-- ==== Sys2Proof/Config.lean ====
section
/-! DEFINITION. What is fixed for the machine: the parameters of spec 00_scope.md R3 and the free values.
The VALUES this hardware takes for the fields of `Config` are in Sys2Proof/Machine/Params.lean. -/

namespace Sys2Proof

/-- `KEY_INDEX_POLICY` (R3, R192, decision D8): what Ex9E and ExA1 do when `V[x] > 15`.
`fault` is the value taken. `mask` (use the low four bits) is recorded by the spec and not taken. -/
inductive KeyIndexPolicy where
  | fault
  | mask
  deriving DecidableEq, Repr

/-- `KEY_PICK` (R3, R195, decision D10): which key ends an Fx0A when several are newly pressed.
`lowest` is the value taken.
DESIGN CHOICE (log entry 9): the spec names no other value, `highest` only makes this a parameter. -/
inductive KeyPick where
  | lowest
  | highest
  deriving DecidableEq, Repr

/-- The parameters of R3 that a rule of the machine reads. -/
structure Config where
  /-- `FONT` (R54, D7): the bytes of memory from 0x000 at reset. -/
  font : List Byte
  /-- `STACK_CAPACITY` (R26, D6): how many return addresses the stack holds, any number from 1 on. -/
  stackCapacity : Nat
  /-- `VF_WRITE_LAST` (R170, D20): whether the flag is written after the result in 8xy4, 5, 6, 7, E. -/
  vfWriteLast : Bool
  /-- `KEY_INDEX_POLICY` (R192, D8). -/
  keyIndexPolicy : KeyIndexPolicy
  /-- `KEY_PICK` (R195, D10). -/
  keyPick : KeyPick
  deriving DecidableEq, Repr

namespace Config

/-- `MEM_SIZE` (R3, R27): addresses 0 to 4095. -/
abbrev memSize : Nat := 4096

/-- `FONT_BASE` (R3): the address of glyph 0. -/
abbrev fontBase : Nat := 0x000

/-- `FONT_GLYPH_BYTES` (R3, R52). -/
abbrev fontGlyphBytes : Nat := 5

/-- `FONT_SIZE` (R3, R52): 16 glyphs of 5 bytes. -/
abbrev fontSize : Nat := 80

/-- `PROGRAM_BASE` (R3, R23): the load address and the reset value of `PC`. -/
abbrev programBase : Nat := 0x200

/-- `PROGRAM_MAX` (R3, R55): 4096 - 0x200. -/
abbrev programMax : Nat := 3584

/-- `NUM_V` (R3, R20). -/
abbrev numV : Nat := 16

/-- `DISPLAY_W` (R3, R29). -/
abbrev displayW : Nat := 64

/-- `DISPLAY_H` (R3, R29). -/
abbrev displayH : Nat := 32

/-- `NUM_KEYS` (R3, R28). -/
abbrev numKeys : Nat := 16

/-- `TIMER_HZ` (R3): a rate that no rule of the machine reads (R279). -/
abbrev timerHz : Nat := 60

/-- `INSTR_HZ` (R3, R279, decision D27): left OPEN by the spec, and no rule of the machine reads it. -/
opaque instrHz : Nat

/-- FREE VALUE (R154, decision D17, log entry 3): the random byte of the k-th tick whose byte no host
event has supplied. It has no body, so nothing can be proved of it. -/
opaque freeRnd : Nat → Byte

end Config

end Sys2Proof
end

