-- ==== Sys2Proof/Syntax.lean ====
section
/-! DEFINITION. The 34 instructions (spec 30_encoding.md R84), one constructor per row of opcode_table.json. -/

namespace Sys2Proof

/-- An instruction with its operand fields (R81, R82), in the order of R84.
A field has exactly the bits the encoding gives it, so there is no ill-formed instruction. -/
inductive Instr where
  /-- `00E0` CLS (R180) -/
  | cls
  /-- `00EE` RET (R131) -/
  | ret
  /-- `1nnn` JP addr (R132) -/
  | jp (nnn : Addr)
  /-- `2nnn` CALL addr (R133) -/
  | call (nnn : Addr)
  /-- `3xkk` SE Vx, byte (R134) -/
  | seImm (x : Reg) (kk : Byte)
  /-- `4xkk` SNE Vx, byte (R135) -/
  | sneImm (x : Reg) (kk : Byte)
  /-- `5xy0` SE Vx, Vy (R136) -/
  | seReg (x y : Reg)
  /-- `6xkk` LD Vx, byte (R150) -/
  | ldImm (x : Reg) (kk : Byte)
  /-- `7xkk` ADD Vx, byte (R151) -/
  | addImm (x : Reg) (kk : Byte)
  /-- `8xy0` LD Vx, Vy (R161) -/
  | ldReg (x y : Reg)
  /-- `8xy1` OR Vx, Vy (R162) -/
  | orReg (x y : Reg)
  /-- `8xy2` AND Vx, Vy (R163) -/
  | andReg (x y : Reg)
  /-- `8xy3` XOR Vx, Vy (R164) -/
  | xorReg (x y : Reg)
  /-- `8xy4` ADD Vx, Vy (R165) -/
  | addReg (x y : Reg)
  /-- `8xy5` SUB Vx, Vy (R166) -/
  | sub (x y : Reg)
  /-- `8xy6` SHR Vx (R167): `y` is decoded and not used (R86) -/
  | shr (x y : Reg)
  /-- `8xy7` SUBN Vx, Vy (R168) -/
  | subn (x y : Reg)
  /-- `8xyE` SHL Vx (R169): `y` is decoded and not used (R86) -/
  | shl (x y : Reg)
  /-- `9xy0` SNE Vx, Vy (R138) -/
  | sneReg (x y : Reg)
  /-- `Annn` LD I, addr (R152) -/
  | ldI (nnn : Addr)
  /-- `Bnnn` JP V0, addr (R137) -/
  | jpV0 (nnn : Addr)
  /-- `Cxkk` RND Vx, byte (R153) -/
  | rnd (x : Reg) (kk : Byte)
  /-- `Dxyn` DRW Vx, Vy, nibble (R183) -/
  | drw (x y : Reg) (n : Nibble)
  /-- `Ex9E` SKP Vx (R190) -/
  | skp (x : Reg)
  /-- `ExA1` SKNP Vx (R191) -/
  | sknp (x : Reg)
  /-- `Fx07` LD Vx, DT (R200) -/
  | ldVxDt (x : Reg)
  /-- `Fx0A` LD Vx, K (R193) -/
  | ldVxK (x : Reg)
  /-- `Fx15` LD DT, Vx (R201) -/
  | ldDtVx (x : Reg)
  /-- `Fx18` LD ST, Vx (R202) -/
  | ldStVx (x : Reg)
  /-- `Fx1E` ADD I, Vx (R203) -/
  | addIVx (x : Reg)
  /-- `Fx29` LD F, Vx (R204) -/
  | ldFVx (x : Reg)
  /-- `Fx33` LD B, Vx (R206) -/
  | ldBVx (x : Reg)
  /-- `Fx55` LD [I], Vx (R207) -/
  | ldMemVx (x : Reg)
  /-- `Fx65` LD Vx, [I] (R208) -/
  | ldVxMem (x : Reg)
  deriving DecidableEq, Repr

/-- The mnemonic of an instruction, as the identifier column of R84 spells it. -/
def Instr.mnemonic : Instr → String
  | .cls => "CLS"
  | .ret => "RET"
  | .jp _ => "JP"
  | .call _ => "CALL"
  | .seImm _ _ => "SE_IMM"
  | .sneImm _ _ => "SNE_IMM"
  | .seReg _ _ => "SE_REG"
  | .ldImm _ _ => "LD_IMM"
  | .addImm _ _ => "ADD_IMM"
  | .ldReg _ _ => "LD_REG"
  | .orReg _ _ => "OR"
  | .andReg _ _ => "AND"
  | .xorReg _ _ => "XOR"
  | .addReg _ _ => "ADD_REG"
  | .sub _ _ => "SUB"
  | .shr _ _ => "SHR"
  | .subn _ _ => "SUBN"
  | .shl _ _ => "SHL"
  | .sneReg _ _ => "SNE_REG"
  | .ldI _ => "LD_I"
  | .jpV0 _ => "JP_V0"
  | .rnd _ _ => "RND"
  | .drw _ _ _ => "DRW"
  | .skp _ => "SKP"
  | .sknp _ => "SKNP"
  | .ldVxDt _ => "LD_VX_DT"
  | .ldVxK _ => "LD_VX_K"
  | .ldDtVx _ => "LD_DT_VX"
  | .ldStVx _ => "LD_ST_VX"
  | .addIVx _ => "ADD_I_VX"
  | .ldFVx _ => "LD_F_VX"
  | .ldBVx _ => "LD_B_VX"
  | .ldMemVx _ => "LD_MEM_VX"
  | .ldVxMem _ => "LD_VX_MEM"

end Sys2Proof
end

