-- ==== Sys2Proof/WellFormed.lean ====
section
/-! DEFINITION. The checks of the inputs of the machine: an instruction word, a program image, a configuration.
An `Instr` needs none: "every register index an instruction can form is valid" (R20), every immediate is
taken unchanged (R83), and all 16 values of the ignored `y` of SHR and SHL are valid (R86), so each of its
fields has exactly the width of the encoding and every term of the type is a well-formed instruction. -/

namespace Sys2Proof

/-- A row of the opcode map of R84. -/
structure OpcodeRow where
  mnemonic : String
  mask : Word
  pattern : Word
  deriving DecidableEq, Repr

/-- The opcode map of R84, in the order of the spec. -/
def opcodeRows : List OpcodeRow :=
  [⟨"CLS", 0xFFFF, 0x00E0⟩, ⟨"RET", 0xFFFF, 0x00EE⟩, ⟨"JP", 0xF000, 0x1000⟩,
   ⟨"CALL", 0xF000, 0x2000⟩, ⟨"SE_IMM", 0xF000, 0x3000⟩, ⟨"SNE_IMM", 0xF000, 0x4000⟩,
   ⟨"SE_REG", 0xF00F, 0x5000⟩, ⟨"LD_IMM", 0xF000, 0x6000⟩, ⟨"ADD_IMM", 0xF000, 0x7000⟩] ++
  [⟨"LD_REG", 0xF00F, 0x8000⟩, ⟨"OR", 0xF00F, 0x8001⟩, ⟨"AND", 0xF00F, 0x8002⟩,
   ⟨"XOR", 0xF00F, 0x8003⟩, ⟨"ADD_REG", 0xF00F, 0x8004⟩, ⟨"SUB", 0xF00F, 0x8005⟩,
   ⟨"SHR", 0xF00F, 0x8006⟩, ⟨"SUBN", 0xF00F, 0x8007⟩, ⟨"SHL", 0xF00F, 0x800E⟩] ++
  [⟨"SNE_REG", 0xF00F, 0x9000⟩, ⟨"LD_I", 0xF000, 0xA000⟩, ⟨"JP_V0", 0xF000, 0xB000⟩,
   ⟨"RND", 0xF000, 0xC000⟩, ⟨"DRW", 0xF000, 0xD000⟩, ⟨"SKP", 0xF0FF, 0xE09E⟩,
   ⟨"SKNP", 0xF0FF, 0xE0A1⟩] ++
  [⟨"LD_VX_DT", 0xF0FF, 0xF007⟩, ⟨"LD_VX_K", 0xF0FF, 0xF00A⟩, ⟨"LD_DT_VX", 0xF0FF, 0xF015⟩,
   ⟨"LD_ST_VX", 0xF0FF, 0xF018⟩, ⟨"ADD_I_VX", 0xF0FF, 0xF01E⟩, ⟨"LD_F_VX", 0xF0FF, 0xF029⟩,
   ⟨"LD_B_VX", 0xF0FF, 0xF033⟩, ⟨"LD_MEM_VX", 0xF0FF, 0xF055⟩, ⟨"LD_VX_MEM", 0xF0FF, 0xF065⟩]

/-- "A word `w` is the instruction of a row when `w & mask = match`" (R84). -/
abbrev OpcodeRow.covers (r : OpcodeRow) (w : Word) : Prop := w &&& r.mask = r.pattern

/-- Whether a word is one of the 34 instructions (R84); any other word is invalid (R90). -/
def Word.wellFormed (w : Word) : Bool := opcodeRows.any fun r => decide (r.covers w)

/-- Whether a program image fits the program region (R55): at most 4096 - 0x200 bytes. -/
def programFits (program : List Byte) : Bool := decide (program.length ≤ Config.programMax)

/-- Whether a configuration gives the font the 80 bytes of its region (R51, R52), and the stack at least one
slot ("any capacity >= 1", D6). -/
def Config.wellFormed (c : Config) : Bool :=
  decide (c.font.length = Config.fontSize) && decide (1 ≤ c.stackCapacity)

end Sys2Proof
end

