-- ==== Sys2Proof/Machine/State.lean ====
section
/-! DEFINITION. The state of the machine as plain data (spec 10_state.md, 48_host_interface.md R235, R236),
and its value right after reset (70_reset_and_hazards.md R271). -/

namespace Sys2Proof.Machine

/-- Memory (R27) as the cells that differ from the reset contents of an empty program (`Memory.initial`),
addresses strictly rising (`Memory.wf`). -/
abbrev Memory := List Host.Cell

/-- The display grid `FB[0..31][0..63]` (R29): 32 rows of 64 cells, true when the pixel is lit. -/
abbrev Display := Vector (Vector Bool Config.displayW) Config.displayH

/-- The blank display. -/
def Display.blank : Display := Vector.replicate Config.displayH (Vector.replicate Config.displayW false)

/-- The six fault kinds of R250. -/
inductive FaultKind where
  | invalidOpcode
  | memoryOutOfBounds
  | stackOverflow
  | stackUnderflow
  | keyIndexOutOfRange
  | programTooLarge
  deriving DecidableEq, Repr

/-- The fault record `(kind, pc, word, addr)` of R251. A part the spec calls absent is `none`.
`addr` is an unbounded integer: an address of R58, a key index, or a program length. -/
structure FaultRecord where
  kind : FaultKind
  pc : Option Word
  word : Option Word
  addr : Option Nat
  deriving DecidableEq, Repr

/-- The signal of a tick that ended without fault (R117, R118). -/
inductive Signal where
  | nothing
  /-- The whole grid by value, as it is after the blit (R119). -/
  | draw (snapshot : Display)
  | beep
  deriving DecidableEq, Repr

/-- The result of a tick (R117). -/
inductive TickResult where
  | ok (signal : Signal)
  | fault (record : FaultRecord)
  deriving DecidableEq, Repr

/-- The four kinds of event in which the block changes state (R230), with their arguments (R235). -/
inductive HostEvent where
  /-- `reset_load(P)` (R231) -/
  | resetLoad (program : List Byte)
  /-- `tick(rnd)` (R232) -/
  | tick (rnd : Byte)
  /-- `advance_timers()` (R233) -/
  | advanceTimers
  /-- `set_key(index, pressed)` (R234): the index port is 4 bits wide -/
  | setKey (index : BitVec 4) (pressed : Bool)
  deriving DecidableEq, Repr

/-- Everything the spec gives the machine (R20 to R32), the result output it holds (R236), and three
fields of the model's own that carry the host's side: `rnd`, `rndCount` and `pending`. -/
structure State where
  /-- `V[0]` to `V[15]` (R20); `VF` is `V[15]` (R21) -/
  v : Vector Byte Config.numV
  /-- `I` (R22) -/
  i : Word
  /-- `PC` (R23) -/
  pc : Word
  /-- `DT` (R24) -/
  dt : Byte
  /-- `ST` (R25) -/
  st : Byte
  /-- `STACK[0]` to `STACK[STACK_CAPACITY-1]` (R26) -/
  stack : Vector Word params.stackCapacity
  /-- `SP`, the count of occupied slots (R26): "Invariant: `0 <= SP <= STACK_CAPACITY` always" -/
  sp : Fin (params.stackCapacity + 1)
  /-- `MEM` (R27) -/
  mem : Memory
  /-- `KEY[0]` to `KEY[15]` (R28) -/
  key : Vector Bool Config.numKeys
  /-- `FB` (R29) -/
  fb : Display
  /-- `WAITING` (R30) -/
  waiting : Bool
  /-- `WAIT_X` (R30) -/
  waitX : Reg
  /-- `KEY_PREV[0]` to `KEY_PREV[15]` (R30) -/
  keyPrev : Vector Bool Config.numKeys
  /-- `FAULT` (R31): none, or the record of the fault that halted the core -/
  fault : Option FaultRecord
  /-- the result of the last tick, "held until the next tick or reset" (R236) -/
  result : TickResult
  /-- MODEL's own: the input port `rnd` (R235), the random byte of the tick in progress (R154) -/
  rnd : Byte
  /-- MODEL's own: how many ticks have drawn their byte from `Config.freeRnd` (log entry 3) -/
  rndCount : Nat
  /-- MODEL's own: the events the host issues next, in its order (R230, log entry 4) -/
  pending : List HostEvent
  deriving DecidableEq, Repr

/-- Reasons for `step` to answer `fault`: there are none. Every fault of this hardware (R250) ends its
event in a defined state, with the latch set and the record returned as the tick's result (R252 to R254),
and later events act on that state, so each is a NEXT state (log entry 1). -/
inductive Fault where
  deriving DecidableEq, Repr

/-- Reasons for `step` to answer `refused`. -/
inductive Refusal where
  /-- Answered by an arm of `exec` for an instruction that has no meaning yet; safe. No arm does so. -/
  | notModelled (mnemonic : String)
  deriving DecidableEq, Repr

/-- What a meaning and a step answer. -/
abbrev Answer := Host.Outcome State Fault Refusal

/-- The state right after `reset_load` of the empty program (R271): the values are those of its table.
`stack`, `result`, `rnd`, `rndCount` and `pending`, for which the table gives no value, are DESIGN CHOICE
(log entries 3, 4, 6, 7); the zeros of the table are the spec's own choice (log entry 5). -/
def State.reset : State where
  v := Vector.replicate Config.numV 0#8
  i := 0x0000#16
  pc := 0x0200#16
  dt := 0x00#8
  st := 0x00#8
  stack := Vector.replicate params.stackCapacity 0#16
  sp := 0
  mem := []
  key := Vector.replicate Config.numKeys false
  fb := Display.blank
  waiting := false
  waitX := 0#4
  keyPrev := Vector.replicate Config.numKeys false
  fault := none
  result := .ok .nothing
  rnd := 0#8
  rndCount := 0
  pending := []

end Sys2Proof.Machine
end

