-- ==== Sys2Proof/Machine/Ops.lean ====
section
/-! DEFINITION. The named operations over memory, registers, the stack, the display and the result, and
raising a fault (spec 00_scope.md R6, 20_memory.md, 10_state.md, 40_step.md R112 to R120,
60_exceptions.md R250 to R254). -/

namespace Sys2Proof.Machine

/-! ## Memory (R27, R50 to R62) -/

/-- What an unlisted address reads as: the reset contents of R53 for the empty program. -/
def Memory.initial (a : Nat) : Byte :=
  if a < Config.fontBase + Config.fontSize then params.font.getD (a - Config.fontBase) 0#8 else 0x00#8

/-- The cells stand at strictly rising addresses from `lo` on, below 4096, and none holds what its
address reads as without it. -/
def Memory.wfFrom (lo : Nat) : Memory → Bool
  | [] => true
  | (a, b) :: rest =>
    decide (lo ≤ a) && decide (a < Config.memSize) && (b != Memory.initial a) && Memory.wfFrom (a + 1) rest

/-- The canonical form of a memory. -/
def Memory.wf (m : Memory) : Bool := Memory.wfFrom 0 m

/-- The byte at an address. -/
def Memory.read : Memory → Nat → Byte
  | [], a => Memory.initial a
  | (c, d) :: rest, a => if a = c then d else Memory.read rest a

/-- Storing a byte, keeping the canonical form. -/
def Memory.write : Memory → Nat → Byte → Memory
  | [], a, b => if b = Memory.initial a then [] else [(a, b)]
  | (c, d) :: rest, a, b =>
    if a < c then
      if b = Memory.initial a then (c, d) :: rest else (a, b) :: (c, d) :: rest
    else if a = c then
      if b = Memory.initial a then rest else (a, b) :: rest
    else (c, d) :: Memory.write rest a b

/-- Bytes from an address on, in ascending order (R60). -/
def Memory.readBytes (m : Memory) (a : Nat) : Nat → List Byte
  | 0 => []
  | k + 1 => m.read a :: Memory.readBytes m (a + 1) k

/-- Storing bytes from an address on, in ascending order (R60). -/
def Memory.writeBytes (m : Memory) (a : Nat) : List Byte → Memory
  | [] => m
  | b :: bs => Memory.writeBytes (m.write a b) (a + 1) bs

/-- The primitive `MemRead(a, 1)` of R6: the error is the address of MemoryOutOfBounds (R56). -/
def Memory.memRead (m : Memory) (a : Nat) : Except Nat Byte :=
  if a > 4095 then .error a else .ok (m.read a)

/-- The bounds check an instruction makes before its first access (R183, R205, R252): of the `count`
bytes from `base`, the lowest address above 4095, `max(I, 4096)`, or none if every one is in range.
The addresses are unbounded integers (R58). -/
def firstOutOfRange (base count : Nat) : Option Nat :=
  if 0 < count ∧ base + count - 1 > 4095 then some (max base 4096) else none

/-! ## General registers (R20) -/

/-- Read of `V[x]`. -/
def State.getV (s : State) (x : Reg) : Byte := s.v[x.toNat]'x.isLt

/-- Write of `V[x]`. -/
def State.setV (s : State) (x : Reg) (b : Byte) : State := { s with v := s.v.set x.toNat b x.isLt }

/-- `V[0]` to `V[x]`, `x` included (R205, decision D24). -/
def State.vUpTo (s : State) (x : Reg) : List Byte := s.v.toList.take (x.toNat + 1)

/-- Loads `V[0]` to `V[x]` from the bytes at `base`, `base + 1`, … (R208). -/
def State.loadV (s : State) (x : Reg) (base : Nat) : State :=
  { s with v := s.v.mapIdx fun k old => if k ≤ x.toNat then s.mem.read (base + k) else old }

/-! ## Other registers -/

/-- Write of `I` (R22). -/
def State.setI (s : State) (w : Word) : State := { s with i := w }

/-- Write of `PC` (R23). -/
def State.setPc (s : State) (w : Word) : State := { s with pc := w }

/-- Write of `DT` (R24). -/
def State.setDt (s : State) (b : Byte) : State := { s with dt := b }

/-- Write of `ST` (R25). -/
def State.setSt (s : State) (b : Byte) : State := { s with st := b }

/-- Write of the whole memory. -/
def State.setMem (s : State) (m : Memory) : State := { s with mem := m }

/-- Write of the whole display. -/
def State.setFb (s : State) (d : Display) : State := { s with fb := d }

/-- The next PC of a sequential instruction, `PC + 2` (R116). -/
def State.advance (s : State) : State := { s with pc := s.pc + 2#16 }

/-- The next PC of a skip (R116): `PC + 4` if the condition holds, else `PC + 2`. -/
def State.skipIf (s : State) (cond : Bool) : State :=
  { s with pc := if cond then s.pc + 4#16 else s.pc + 2#16 }

/-! ## The wait state (R30) -/

/-- The wait begins for register `x` (R194): the keypad is sampled as it is now. -/
def State.beginWait (s : State) (x : Reg) : State := { s with waiting := true, waitX := x, keyPrev := s.key }

/-- The wait ends (R195). -/
def State.endWait (s : State) : State := { s with waiting := false }

/-- The keypad is sampled again (R196). -/
def State.sampleKeys (s : State) : State := { s with keyPrev := s.key }

/-! ## The stack (R6, R26) -/

/-- `Push(v)`, or none when the stack is full. -/
def State.push (s : State) (ret : Word) : Option State :=
  if h : s.sp.val < params.stackCapacity then
    some { s with stack := s.stack.set s.sp.val ret h, sp := ⟨s.sp.val + 1, Nat.succ_lt_succ h⟩ }
  else none

/-- `Pop()`, or none when the stack is empty. The popped slot keeps its content (R26). -/
def State.pop (s : State) : Option (Word × State) :=
  if h : 0 < s.sp.val then
    some (s.stack[s.sp.val - 1]'(by have := s.sp.isLt; omega),
      { s with sp := ⟨s.sp.val - 1, by have := s.sp.isLt; omega⟩ })
  else none

/-! ## The display (R29) -/

/-- The cell `FB[r][c]`. -/
def Display.cell (d : Display) (r : Fin 32) (c : Fin 64) : Bool := (d[r.val]'r.isLt)[c.val]'c.isLt

/-- Write of the cell `FB[r][c]`. -/
def Display.setCell (d : Display) (r : Fin 32) (c : Fin 64) (b : Bool) : Display :=
  d.set r.val ((d[r.val]'r.isLt).set c.val b c.isLt) r.isLt

/-! ## The end of a tick (R117 to R120) -/

/-- The signal of a tick that drew nothing (R118, R120): Beep if `ST > 0` in the state after the tick. -/
def quietSignal (st : Byte) : Signal := if 0 < st.toNat then .beep else .nothing

/-- A tick that ends without fault and without a draw. -/
def State.complete (s : State) : State := { s with result := .ok (quietSignal s.st) }

/-- A tick that executed Dxyn (R119): the snapshot is the grid after the blit. -/
def State.completeDraw (s : State) : State := { s with result := .ok (.draw s.fb) }

/-! ## Raising a fault (R252 to R254)
The one shared form of taking an exception on this hardware. There is no handler: nothing is saved, no
mode changes, control goes nowhere (R264). There is no return from a fault either (R265): only
`resetLoad` (HostEvents.lean) clears the latch. -/

/-- The event ends in a fault: the record is latched in `FAULT` and returned as the result, and nothing
else changes (R252, R253). -/
def State.raise (s : State) (r : FaultRecord) : State := { s with fault := some r, result := .fault r }

/-- A fault of the execute phase of the instruction whose word is `word` (R250, R251): the record holds
the PC, the word and the offending address or index, if the kind has one. -/
def State.raiseIn (s : State) (kind : FaultKind) (word : Word) (addr : Option Nat) : State :=
  s.raise { kind := kind, pc := some s.pc, word := some word, addr := addr }

/-! ## Fetch (R112) -/

/-- `fetch()`: the big-endian word at `PC`, or the address of MemoryOutOfBounds. -/
def fetch (s : State) : Except Nat Word :=
  match s.mem.memRead s.pc.toNat with
  | .error a => .error a
  | .ok hi =>
    match s.mem.memRead (s.pc.toNat + 1) with
    | .error a => .error a
    | .ok lo => .ok (wordOfBytes hi lo)

end Sys2Proof.Machine
end

