-- ==== Sys2Proof/Machine/HostEvents.lean ====
section
/-! DEFINITION. The host's other events (spec 47_timer_countdown.md R220 to R224, 48_host_interface.md R231,
R234, R241, 70_reset_and_hazards.md R270 to R273). -/

namespace Sys2Proof.Machine

/-! ## advance_timers() -/

/-- One step of a countdown: "Decrement floors at 0 (never goes negative)" (R222). -/
def countDown (t : Byte) : Byte := if 0 < t.toNat then t - 1#8 else t

/-- `advance_timers()` (R221): in every state of the core, waiting or faulted ones too (R224). -/
def advanceTimers (s : State) : State := { s with dt := countDown s.dt, st := countDown s.st }

/-! ## set_key(index, pressed) -/

/-- `set_key` (R234): `KEY[index] <- pressed`, and nothing else. -/
def setKey (index : BitVec 4) (pressed : Bool) (s : State) : State :=
  { s with key := s.key.set index.toNat pressed index.isLt }

/-! ## reset_load(P) -/

/-- The cells of a program copied "verbatim" from address `a` on (R53, R55), in canonical form. -/
def programCells (a : Nat) : List Byte → Memory
  | [] => []
  | b :: bs => if b = Memory.initial a then programCells (a + 1) bs else (a, b) :: programCells (a + 1) bs

/-- `reset_load(P)` (R231, R271, R272): all previous state is discarded (D35). What is the host's own, the
events still to come and the count of free random bytes, is not state of the block and stays. A program of
more than 3584 bytes is not copied, and ProgramTooLarge is latched. -/
def resetLoad (program : List Byte) (s : State) : State :=
  let fresh := { State.reset with rndCount := s.rndCount, pending := s.pending }
  if program.length ≤ Config.programMax then
    { fresh with mem := programCells Config.programBase program }
  else
    fresh.raise { kind := .programTooLarge, pc := none, word := none, addr := some program.length }

/-! ## Simultaneous requests -/

/-- The events of one clock cycle of a clocked implementation, in the order it performs them (R241, D18):
a reset overrides all others, else the key update, then the timers, then the tick. -/
def cycleEvents (reset : Option (List Byte)) (key : Option (BitVec 4 × Bool)) (timer : Bool)
    (tick : Option Byte) : List HostEvent :=
  match reset with
  | some program => [.resetLoad program]
  | none =>
    (match key with | some (index, pressed) => [.setKey index pressed] | none => []) ++
    (if timer then [.advanceTimers] else []) ++
    (match tick with | some rnd => [.tick rnd] | none => [])

end Sys2Proof.Machine
end

