-- ==== Sys2Proof/Machine/Flags.lean ====
section
/-! DEFINITION. The flag computations that go to VF (spec 10_state.md R21, 43_alu.md R165 to R170,
44_display.md R184). Each takes the operands as they were before the instruction (R160). -/

namespace Sys2Proof.Machine

/-- "Each writes 0x00 or 0x01, never another value" (R21). -/
def flagByte (b : Bool) : Byte := if b then 0x01#8 else 0x00#8

/-- The carry of 8xy4 (R165): the sum needs a ninth bit. -/
def carryOut (a b : Byte) : Bool := decide (a.toNat + b.toNat > 255)

/-- The flag of a subtraction `a - b` (R166, R168): no borrow occurs, equality included. -/
def notBorrow (a b : Byte) : Bool := decide (a.toNat ≥ b.toNat)

/-- The bit 8xy6 shifts out (R167). -/
def shiftedOutRight (a : Byte) : Bool := a.getLsbD 0

/-- The bit 8xyE shifts out (R169). -/
def shiftedOutLeft (a : Byte) : Bool := a.getLsbD 7

/-- The two writes of 8xy4, 5, 6, 7 and E, the result to `V[x]` and the flag to `VF` (R170): the flag first
and the result last, or exchanged when `VF_WRITE_LAST` is true (D20). The order shows only when x = 0xF. -/
def State.setResultAndFlag (s : State) (vfWriteLast : Bool) (x : Reg) (res : Byte) (flag : Bool) : State :=
  if vfWriteLast then (s.setV x res).setV regF (flagByte flag)
  else (s.setV regF (flagByte flag)).setV x res

end Sys2Proof.Machine
end

