-- ==== Sys2Proof/Machine/Alu.lean ====
section
/-! DEFINITION. The register-to-register family 8xy_ (spec 43_alu.md R160 to R171). Operands are read
before any register is written (R160). -/

namespace Sys2Proof.Machine

/-- A sequential instruction whose one effect is `V[x] <- res`. -/
def moveResult (x : Reg) (res : Byte) (s : State) : Answer := .next (s.setV x res).advance.complete

/-- A sequential instruction that writes a result to `V[x]` and a flag to `VF` (R170). -/
def flaggedResult (x : Reg) (res : Byte) (flag : Bool) (s : State) : Answer :=
  .next (s.setResultAndFlag params.vfWriteLast x res flag).advance.complete

/-- LD Vx, Vy, `8xy0` (R161). -/
def execLdReg (x y : Reg) (s : State) : Answer := moveResult x (s.getV y) s

/-- OR Vx, Vy, `8xy1` (R162). -/
def execOrReg (x y : Reg) (s : State) : Answer := moveResult x (s.getV x ||| s.getV y) s

/-- AND Vx, Vy, `8xy2` (R163). -/
def execAndReg (x y : Reg) (s : State) : Answer := moveResult x (s.getV x &&& s.getV y) s

/-- XOR Vx, Vy, `8xy3` (R164). -/
def execXorReg (x y : Reg) (s : State) : Answer := moveResult x (s.getV x ^^^ s.getV y) s

/-- ADD Vx, Vy, `8xy4` (R165). -/
def execAddReg (x y : Reg) (s : State) : Answer :=
  flaggedResult x (s.getV x + s.getV y) (carryOut (s.getV x) (s.getV y)) s

/-- SUB Vx, Vy, `8xy5` (R166). -/
def execSub (x y : Reg) (s : State) : Answer :=
  flaggedResult x (s.getV x - s.getV y) (notBorrow (s.getV x) (s.getV y)) s

/-- SHR Vx, `8xy6` (R167): shifts V[x] in place, `y` is ignored (R86). -/
def execShr (x _y : Reg) (s : State) : Answer :=
  flaggedResult x (s.getV x >>> 1) (shiftedOutRight (s.getV x)) s

/-- SUBN Vx, Vy, `8xy7` (R168). -/
def execSubn (x y : Reg) (s : State) : Answer :=
  flaggedResult x (s.getV y - s.getV x) (notBorrow (s.getV y) (s.getV x)) s

/-- SHL Vx, `8xyE` (R169): shifts V[x] in place, `y` is ignored (R86). -/
def execShl (x _y : Reg) (s : State) : Answer :=
  flaggedResult x (s.getV x <<< 1) (shiftedOutLeft (s.getV x)) s

end Sys2Proof.Machine
end

