-- ==== Sys2Proof/Machine/Operands.lean ====
section
/-! DEFINITION. The computed operand forms (spec 30_encoding.md R83, 46_misc_f.md R204 to R209,
44_display.md R181, R182, 45_keypad.md R192). Registers, immediates and `n` are used as decoded. -/

namespace Sys2Proof.Machine

/-- `nnn` as a jump target or a value of `I` (R83): an absolute address, zero-extended. -/
def absolute (nnn : Addr) : Word := BitVec.ofNat 16 nnn.toNat

/-- `nnn + V[0]` (R137): the target of Bnnn. -/
def offsetTarget (nnn : Addr) (v0 : Byte) : Word := BitVec.ofNat 16 (nnn.toNat + v0.toNat)

/-- `I + a` reduced mod 65536 (R203). -/
def indexSum (i : Word) (a : Byte) : Word := BitVec.ofNat 16 (i.toNat + a.toNat)

/-- `a * 5`, the address of glyph `a` when `a <= 15` (R204); the whole byte is multiplied. -/
def glyphAddress (a : Byte) : Word := BitVec.ofNat 16 (a.toNat * Config.fontGlyphBytes)

/-- The hundreds, tens and units digits of a byte, one byte each, in the order Fx33 stores them (R206). -/
def bcdDigits (a : Byte) : List Byte :=
  [BitVec.ofNat 8 (a.toNat / 100), BitVec.ofNat 8 (a.toNat / 10 % 10), BitVec.ofNat 8 (a.toNat % 10)]

/-- The address of a memory access of Dxyn, Fx33, Fx55 and Fx65 at offset 0 (R209): the index register as
an unbounded integer (R58). The byte at offset `r` is at `indexBase s + r`. -/
def indexBase (s : State) : Nat := s.i.toNat

/-- The pixel of column `c` of a sprite row, column 0 being bit 7 (R181). -/
def spritePixel (row : Byte) (c : Nat) : Bool := row.getLsbD (7 - c)

/-- `(startX + c) mod 64` (R182). -/
def pixelColumn (startX : Byte) (c : Nat) : Fin 64 := Fin.ofNat 64 (startX.toNat + c)

/-- `(startY + r) mod 32` (R182). -/
def pixelRow (startY : Byte) (r : Nat) : Fin 32 := Fin.ofNat 32 (startY.toNat + r)

/-- The key an Ex9E or ExA1 names, or none when the index is a fault under the policy (R192, D8). -/
def keyIndex (policy : KeyIndexPolicy) (k : Byte) : Option (Fin 16) :=
  match policy with
  | .fault => if h : k.toNat < 16 then some ⟨k.toNat, h⟩ else none
  | .mask => some (Fin.ofNat 16 k.toNat)

end Sys2Proof.Machine
end

