-- ==== Sys2Proof/Machine/Control.lean ====
section
/-! DEFINITION. Control transfer: RET, JP, CALL, SE, SNE, JP V0 (spec 41_control_flow.md R130 to R139).
No target is checked when it is written to PC (R130). -/

namespace Sys2Proof.Machine

/-- RET, `00EE` (R131). -/
def execRet (s : State) : Answer :=
  match s.pop with
  | some (target, t) => .next (t.setPc target).complete
  | none => .next (s.raiseIn .stackUnderflow (encode .ret) none)

/-- JP addr, `1nnn` (R132). -/
def execJp (nnn : Addr) (s : State) : Answer := .next (s.setPc (absolute nnn)).complete

/-- CALL addr, `2nnn` (R133): pushes the address of the instruction after the CALL. -/
def execCall (nnn : Addr) (s : State) : Answer :=
  match s.push (s.pc + 2#16) with
  | some t => .next (t.setPc (absolute nnn)).complete
  | none => .next (s.raiseIn .stackOverflow (encode (.call nnn)) none)

/-- SE Vx, byte, `3xkk` (R134). -/
def execSeImm (x : Reg) (kk : Byte) (s : State) : Answer :=
  .next (s.skipIf (s.getV x == kk)).complete

/-- SNE Vx, byte, `4xkk` (R135). -/
def execSneImm (x : Reg) (kk : Byte) (s : State) : Answer :=
  .next (s.skipIf (s.getV x != kk)).complete

/-- SE Vx, Vy, `5xy0` (R136). -/
def execSeReg (x y : Reg) (s : State) : Answer :=
  .next (s.skipIf (s.getV x == s.getV y)).complete

/-- SNE Vx, Vy, `9xy0` (R138). -/
def execSneReg (x y : Reg) (s : State) : Answer :=
  .next (s.skipIf (s.getV x != s.getV y)).complete

/-- JP V0, addr, `Bnnn` (R137): the offset register is always V[0]. -/
def execJpV0 (nnn : Addr) (s : State) : Answer :=
  .next (s.setPc (offsetTarget nnn (s.getV 0#4))).complete

end Sys2Proof.Machine
end

