-- ==== Sys2Proof/Machine/DisplayOps.lean ====
section
/-! DEFINITION. CLS and the sprite blitter DRW (spec 44_display.md R180 to R188). -/

namespace Sys2Proof.Machine

/-- CLS, `00E0` (R180): returns no Draw (R119). -/
def execCls (s : State) : Answer := .next (s.setFb Display.blank).advance.complete

/-- One pixel of the blit (R183): XOR into the cell, and the collision accumulated in the second part. -/
def blitPixel (startX startY row : Byte) (r c : Nat) (acc : Display × Bool) : Display × Bool :=
  let bit := spritePixel row c
  let cy := pixelRow startY r
  let cx := pixelColumn startX c
  let old := acc.1.cell cy cx
  (acc.1.setCell cy cx (old ^^ bit), acc.2 || (old && bit))

/-- One sprite row, columns 0 to 7 in order (R183). -/
def blitRow (startX startY row : Byte) (r : Nat) (acc : Display × Bool) : Display × Bool :=
  (List.range 8).foldl (fun acc c => blitPixel startX startY row r c acc) acc

/-- The sprite rows from row offset `r` on, in order (R183). -/
def blitRows (startX startY : Byte) : Nat → List Byte → Display × Bool → Display × Bool
  | _, [], acc => acc
  | r, row :: rows, acc => blitRows startX startY (r + 1) rows (blitRow startX startY row r acc)

/-- The whole blit: the new grid, and whether any pixel collided (R184). -/
def blit (startX startY : Byte) (rows : List Byte) (d : Display) : Display × Bool :=
  blitRows startX startY 0 rows (d, false)

/-- DRW Vx, Vy, nibble, `Dxyn` (R183): `I` is unchanged (D29), and the bounds of all rows are checked
before any write (D11). -/
def execDrw (x y : Reg) (n : Nibble) (s : State) : Answer :=
  match firstOutOfRange (indexBase s) n.toNat with
  | some a => .next (s.raiseIn .memoryOutOfBounds (encode (.drw x y n)) (some a))
  | none =>
    let drawn := blit (s.getV x) (s.getV y) (s.mem.readBytes (indexBase s) n.toNat) s.fb
    .next (((s.setFb drawn.1).setV regF (flagByte drawn.2)).advance.completeDraw)

end Sys2Proof.Machine
end

