-- ==== Sys2Proof/Machine/Keypad.lean ====
section
/-! DEFINITION. The keypad skips and the key wait (spec 45_keypad.md R190 to R197). -/

namespace Sys2Proof.Machine

/-- `KEY[k]` (R28). -/
def State.keyDown (s : State) (k : Fin 16) : Bool := s.key[k.val]'k.isLt

/-- SKP Vx, `Ex9E` (R190). -/
def execSkp (x : Reg) (s : State) : Answer :=
  match keyIndex params.keyIndexPolicy (s.getV x) with
  | none => .next (s.raiseIn .keyIndexOutOfRange (encode (.skp x)) (some (s.getV x).toNat))
  | some k => .next (s.skipIf (s.keyDown k)).complete

/-- SKNP Vx, `ExA1` (R191). -/
def execSknp (x : Reg) (s : State) : Answer :=
  match keyIndex params.keyIndexPolicy (s.getV x) with
  | none => .next (s.raiseIn .keyIndexOutOfRange (encode (.sknp x)) (some (s.getV x).toNat))
  | some k => .next (s.skipIf (!s.keyDown k)).complete

/-- LD Vx, K, `Fx0A`: the entering tick (R194). PC is unchanged. -/
def execLdVxK (x : Reg) (s : State) : Answer :=
  .next (s.beginWait x).complete

/-- The newly pressed keys, lowest index first (R195): down now, up at the last sample. -/
def State.newKeys (s : State) : List (Fin 16) :=
  (List.finRange 16).filter fun k => s.key[k.val]'k.isLt && !(s.keyPrev[k.val]'k.isLt)

/-- The key of several newly pressed ones that ends the wait (R195, D10). -/
def pickKey (policy : KeyPick) (keys : List (Fin 16)) : Option (Fin 16) :=
  match policy with
  | .lowest => keys.head?
  | .highest => keys.getLast?

/-- A tick that starts with `WAITING` true: it fetches nothing (R121), and is the completing tick (R195)
if some key is newly pressed, else an idle tick (R196). -/
def waitTick (s : State) : State :=
  match pickKey params.keyPick s.newKeys with
  | some k => (s.setV s.waitX (BitVec.ofNat 8 k.val)).advance.endWait.complete
  | none => s.sampleKeys.complete

end Sys2Proof.Machine
end

