-- ==== Sys2Proof/Machine/LoadAddRnd.lean ====
section
/-! DEFINITION. Immediate loads, immediate add, index load, random (spec 42_load_add_rnd.md R150 to R154). -/

namespace Sys2Proof.Machine

/-- LD Vx, byte, `6xkk` (R150). -/
def execLdImm (x : Reg) (kk : Byte) (s : State) : Answer := .next (s.setV x kk).advance.complete

/-- ADD Vx, byte, `7xkk` (R151): wraps, and writes no flag (D28). -/
def execAddImm (x : Reg) (kk : Byte) (s : State) : Answer :=
  .next (s.setV x (s.getV x + kk)).advance.complete

/-- LD I, addr, `Annn` (R152). -/
def execLdI (nnn : Addr) (s : State) : Answer := .next (s.setI (absolute nnn)).advance.complete

/-- RND Vx, byte, `Cxkk` (R153): samples the port `rnd` of this tick (R154). -/
def execRnd (x : Reg) (kk : Byte) (s : State) : Answer :=
  .next (s.setV x (s.rnd &&& kk)).advance.complete

end Sys2Proof.Machine
end

