-- ==== Sys2Proof/Machine/MiscF.lean ====
section
/-! DEFINITION. The F family but Fx0A: timer access, index arithmetic, font address, BCD, register store
and load (spec 46_misc_f.md R200 to R209). `I` is not changed by Fx33, Fx55 and Fx65 (R205, D29). -/

namespace Sys2Proof.Machine

/-- LD Vx, DT, `Fx07` (R200). -/
def execLdVxDt (x : Reg) (s : State) : Answer := .next (s.setV x s.dt).advance.complete

/-- LD DT, Vx, `Fx15` (R201). -/
def execLdDtVx (x : Reg) (s : State) : Answer := .next (s.setDt (s.getV x)).advance.complete

/-- LD ST, Vx, `Fx18` (R202): the signal is taken from the new ST (R120). -/
def execLdStVx (x : Reg) (s : State) : Answer := .next (s.setSt (s.getV x)).advance.complete

/-- ADD I, Vx, `Fx1E` (R203): writes no flag (D28), and the new `I` is not checked. -/
def execAddIVx (x : Reg) (s : State) : Answer :=
  .next (s.setI (indexSum s.i (s.getV x))).advance.complete

/-- LD F, Vx, `Fx29` (R204). -/
def execLdFVx (x : Reg) (s : State) : Answer :=
  .next (s.setI (glyphAddress (s.getV x))).advance.complete

/-- Stores bytes at the index register, or raises before any write if one is out of range (R205). -/
def storeAtIndex (i : Instr) (bytes : List Byte) (s : State) : Answer :=
  match firstOutOfRange (indexBase s) bytes.length with
  | some a => .next (s.raiseIn .memoryOutOfBounds (encode i) (some a))
  | none => .next (s.setMem (s.mem.writeBytes (indexBase s) bytes)).advance.complete

/-- LD B, Vx, `Fx33` (R206). -/
def execLdBVx (x : Reg) (s : State) : Answer := storeAtIndex (.ldBVx x) (bcdDigits (s.getV x)) s

/-- LD [I], Vx, `Fx55` (R207). -/
def execLdMemVx (x : Reg) (s : State) : Answer := storeAtIndex (.ldMemVx x) (s.vUpTo x) s

/-- LD Vx, [I], `Fx65` (R208). -/
def execLdVxMem (x : Reg) (s : State) : Answer :=
  match firstOutOfRange (indexBase s) (x.toNat + 1) with
  | some a => .next (s.raiseIn .memoryOutOfBounds (encode (.ldVxMem x)) (some a))
  | none => .next (s.loadV x (indexBase s)).advance.complete

end Sys2Proof.Machine
end

