-- ==== Sys2Proof/Machine/Tick.lean ====
section
/-! DEFINITION. The event tick() (spec 40_step.md R110 to R122). -/

namespace Sys2Proof.Machine

/-- Phases 5 and 6 of a tick for the fetched word (R114, R115, R255). -/
def decodeAndExecute (word : Word) (s : State) : Answer :=
  match decodeWord word with
  | .error _ => .next (s.raiseIn .invalidOpcode word none)
  | .ok i => exec i s

/-- Phases 3 to 7 of a tick (R111): a fault of the fetch has no word (R250, R251). -/
def fetchAndExecute (s : State) : Answer :=
  match fetch s with
  | .error a => .next (s.raise { kind := .memoryOutOfBounds, pc := some s.pc, word := none, addr := some a })
  | .ok word => decodeAndExecute word s

/-- `tick()` (R111): with the latch set it returns the latched fault and changes nothing (R122), in the
wait state it looks at the keypad (R121), else it executes one instruction. The random byte is on the
port `rnd`. -/
def tick (s : State) : Answer :=
  match s.fault with
  | some r => .next { s with result := .fault r }
  | none => if s.waiting then .next (waitTick s) else fetchAndExecute s

end Sys2Proof.Machine
end

