-- ==== Sys2Proof/Machine/Step.lean ====
section
/-! DEFINITION. One step of the machine: one atomic event (spec 48_host_interface.md R230). -/

namespace Sys2Proof.Machine

/-- The state in which a tick whose byte the host has not supplied runs: a free byte is on the port `rnd`
(R154), and the next one will be another draw. -/
def State.drawRnd (s : State) : State :=
  { s with rnd := Config.freeRnd s.rndCount, rndCount := s.rndCount + 1 }

/-- One event on a state that no longer lists it (R230). -/
def runEvent (e : HostEvent) (s : State) : Host.Outcome State Fault Refusal :=
  match e with
  | .resetLoad program => .next (resetLoad program s)
  | .tick rnd => tick { s with rnd := rnd }
  | .advanceTimers => .next (advanceTimers s)
  | .setKey index pressed => .next (setKey index pressed s)

/-- One step: the next event the host issues, or, when none is listed, a tick with a free random byte
(DESIGN CHOICE, log entry 4). -/
def step (s : State) : Host.Outcome State Fault Refusal :=
  match s.pending with
  | [] => tick s.drawRnd
  | e :: rest => runEvent e { s with pending := rest }

/-- Where `step` fetches the instruction that `withFetchWord` stores: at `PC`, or at 0x200 if no fetch at
`PC` can succeed (R112). -/
def State.fetchPlace (s : State) : Word := if s.pc.toNat ≤ 4094 then s.pc else 0x0200#16

/-- The state with an instruction, numbered as opcode_table.json numbers it, where the very next step
fetches: in memory at the fetch place, with no fault latched, no key wait and no host event before it. -/
def State.withFetchWord (s : State) (nbits w : Nat) : State :=
  { s with
    pc := s.fetchPlace
    mem := s.mem.writeBytes s.fetchPlace.toNat (bytesOfWord (tableWord nbits w))
    waiting := false
    fault := none
    pending := [] }

end Sys2Proof.Machine
end

