-- ==== Sys2Proof/Machine/Ports.lean ====
section
/-! DEFINITION. The output ports of the block as functions of the state (spec 48_host_interface.md R236 to
R240, 60_exceptions.md R250). -/

namespace Sys2Proof.Machine

/-- The numeric code of a fault kind (R250, D13). -/
def FaultKind.code : FaultKind → Nat
  | .invalidOpcode => 1
  | .memoryOutOfBounds => 2
  | .stackOverflow => 3
  | .stackUnderflow => 4
  | .keyIndexOutOfRange => 5
  | .programTooLarge => 6

/-- `result_ok`: the last tick ended without fault. -/
def portResultOk (s : State) : Bool :=
  match s.result with
  | .ok _ => true
  | .fault _ => false

/-- `signal`: the signal of the last tick when `result_ok`. -/
def portSignal (s : State) : Option Signal :=
  match s.result with
  | .ok signal => some signal
  | .fault _ => none

/-- `draw`: the last tick executed Dxyn (R237). -/
def portDraw (s : State) : Bool :=
  match s.result with
  | .ok (.draw _) => true
  | _ => false

/-- `fb`: the grid, at all times (R238). -/
def portFb (s : State) : Display := s.fb

/-- `beep`: the level `ST > 0`, at all times (R239). -/
def portBeep (s : State) : Bool := decide (0 < s.st.toNat)

/-- `waiting` (R240). -/
def portWaiting (s : State) : Bool := s.waiting

/-- `fault_kind`, none when there is no fault (R240). -/
def portFaultKind (s : State) : Option FaultKind := s.fault.map (·.kind)

/-- `fault_pc`. -/
def portFaultPc (s : State) : Option Word := s.fault.bind (·.pc)

/-- `fault_word`. -/
def portFaultWord (s : State) : Option Word := s.fault.bind (·.word)

/-- `fault_addr`. -/
def portFaultAddr (s : State) : Option Nat := s.fault.bind (·.addr)

end Sys2Proof.Machine
end

