-- ==== Sys2Proof/Safety.lean ====
section
/-! DEFINITION. What counts as a safe run, and the terms the claims use: the parts of the state, what an
instruction may write (spec 10_state.md R33), when it faults (60_exceptions.md R261), its next PC
(40_step.md R116), and the invariants of the machine. -/

namespace Sys2Proof.Machine

/-! ## Runs -/

/-- No fault is latched in any state of the first `k` steps from `s`. -/
def SafeFor (k : Nat) (s : State) : Prop :=
  ∀ j t, j ≤ k → Host.Core.run Sys2Proof.core j s = .next t → t.fault = none

/-- The suggested reading of the OPEN parameter `END_OF_RUN` (R243, D23; not adopted by the spec): no fault,
no wait, and the word at PC is a `1nnn` whose target is its own address. -/
def State.parked (s : State) : Prop :=
  s.fault = none ∧ s.waiting = false ∧ ∃ nnn : Addr, nnn.toNat = s.pc.toNat ∧ fetch s = .ok (encode (.jp nnn))

/-- The event a step takes: the first one the host has listed, else a tick with a free byte. -/
def nextEvent (s : State) : HostEvent :=
  match s.pending with
  | [] => .tick (Config.freeRnd s.rndCount)
  | e :: _ => e

/-- The instruction a tick in this state executes: none with the latch set, in the wait state, or when the
fetch or the decode faults (R111). -/
def tickInstr (s : State) : Option Instr :=
  if s.fault = none ∧ s.waiting = false then
    match fetch s with
    | .error _ => none
    | .ok w =>
      match decodeWord w with
      | .error _ => none
      | .ok i => some i
  else none

/-- The instruction the step executes, if its event is a tick that executes one. -/
def executed (s : State) : Option Instr :=
  match nextEvent s with
  | .tick _ => tickInstr s
  | _ => none

/-! ## The parts of the state -/

/-- A part of the state that one rule writes and another leaves alone. -/
inductive Part where
  | v (r : Reg)
  | i
  | pc
  | dt
  | st
  | slot (k : Fin params.stackCapacity)
  | sp
  | mem (a : Nat)
  | key (k : Fin 16)
  | cell (r : Fin 32) (c : Fin 64)
  | waiting
  | waitX
  | keyPrev
  | fault
  | result
  /-- the model's own fields -/
  | host
  deriving DecidableEq, Repr

/-- The part reads the same in both states. A byte of memory is compared through the read of one byte. -/
def Part.same : Part → State → State → Prop
  | .v r, s, t => t.getV r = s.getV r
  | .i, s, t => t.i = s.i
  | .pc, s, t => t.pc = s.pc
  | .dt, s, t => t.dt = s.dt
  | .st, s, t => t.st = s.st
  | .slot k, s, t => t.stack[k.val]'k.isLt = s.stack[k.val]'k.isLt
  | .sp, s, t => t.sp = s.sp
  | .mem a, s, t => t.mem.read a = s.mem.read a
  | .key k, s, t => t.key[k.val]'k.isLt = s.key[k.val]'k.isLt
  | .cell r c, s, t => t.fb.cell r c = s.fb.cell r c
  | .waiting, s, t => t.waiting = s.waiting
  | .waitX, s, t => t.waitX = s.waitX
  | .keyPrev, s, t => t.keyPrev = s.keyPrev
  | .fault, s, t => t.fault = s.fault
  | .result, s, t => t.result = s.result
  | .host, s, t => t.rnd = s.rnd ∧ t.rndCount = s.rndCount ∧ t.pending = s.pending

/-- The frame: every part outside `changed` is the same in `t` as in `s`. -/
def Unchanged (changed : Part → Prop) (s t : State) : Prop := ∀ p, ¬ changed p → p.same s t

/-- The instruction's own fault: the tick latches the record and returns it, and nothing else changes
(R252, R253). -/
def FaultsWith (r : FaultRecord) (s t : State) : Prop :=
  t.fault = some r ∧ t.result = .fault r ∧ Unchanged (· ∈ [.fault, .result]) s t

/-! ## What an instruction may write (R33) -/

/-- The parts an instruction that completes may write, from the table of R33 with the registers, slots,
bytes and cells it names. The result is written by every tick. -/
def Instr.writes (s : State) : Instr → Part → Prop
  | .cls, p => p = .pc ∨ ∃ r c, p = .cell r c
  | .ret, p => p = .pc ∨ p = .sp
  | .jp _, p => p = .pc
  | .call _, p => p = .pc ∨ p = .sp ∨ ∃ k : Fin params.stackCapacity, p = .slot k ∧ k.val = s.sp.val
  | .seImm _ _, p => p = .pc
  | .sneImm _ _, p => p = .pc
  | .seReg _ _, p => p = .pc
  | .ldImm x _, p => p = .pc ∨ p = .v x
  | .addImm x _, p => p = .pc ∨ p = .v x
  | .ldReg x _, p => p = .pc ∨ p = .v x
  | .orReg x _, p => p = .pc ∨ p = .v x
  | .andReg x _, p => p = .pc ∨ p = .v x
  | .xorReg x _, p => p = .pc ∨ p = .v x
  | .addReg x _, p => p = .pc ∨ p = .v x ∨ p = .v regF
  | .sub x _, p => p = .pc ∨ p = .v x ∨ p = .v regF
  | .shr x _, p => p = .pc ∨ p = .v x ∨ p = .v regF
  | .subn x _, p => p = .pc ∨ p = .v x ∨ p = .v regF
  | .shl x _, p => p = .pc ∨ p = .v x ∨ p = .v regF
  | .sneReg _ _, p => p = .pc
  | .ldI _, p => p = .pc ∨ p = .i
  | .jpV0 _, p => p = .pc
  | .rnd x _, p => p = .pc ∨ p = .v x
  | .drw _ _ _, p => p = .pc ∨ p = .v regF ∨ ∃ r c, p = .cell r c
  | .skp _, p => p = .pc
  | .sknp _, p => p = .pc
  | .ldVxDt x, p => p = .pc ∨ p = .v x
  | .ldVxK _, p => p = .waiting ∨ p = .waitX ∨ p = .keyPrev
  | .ldDtVx _, p => p = .pc ∨ p = .dt
  | .ldStVx _, p => p = .pc ∨ p = .st
  | .addIVx _, p => p = .pc ∨ p = .i
  | .ldFVx _, p => p = .pc ∨ p = .i
  | .ldBVx _, p => p = .pc ∨ ∃ k, k < 3 ∧ p = .mem (indexBase s + k)
  | .ldMemVx x, p => p = .pc ∨ ∃ k, k ≤ x.toNat ∧ p = .mem (indexBase s + k)
  | .ldVxMem x, p => p = .pc ∨ ∃ r : Reg, r ≤ x ∧ p = .v r

/-! ## When an instruction faults (R261) -/

/-- The fault of an instruction in its execute phase: the kind and the address or index recorded, from the
tables of R250 and R261. All other instructions have none. -/
def executeFault (s : State) : Instr → Option (FaultKind × Option Nat)
  | .ret => if s.sp.val = 0 then some (.stackUnderflow, none) else none
  | .call _ => if s.sp.val = params.stackCapacity then some (.stackOverflow, none) else none
  | .drw _ _ n =>
    if 1 ≤ n.toNat ∧ s.i.toNat + n.toNat - 1 > 4095 then some (.memoryOutOfBounds, some (max s.i.toNat 4096)) else none
  | .skp x => if (s.getV x).toNat > 15 then some (.keyIndexOutOfRange, some (s.getV x).toNat) else none
  | .sknp x => if (s.getV x).toNat > 15 then some (.keyIndexOutOfRange, some (s.getV x).toNat) else none
  | .ldBVx _ => if s.i.toNat + 2 > 4095 then some (.memoryOutOfBounds, some (max s.i.toNat 4096)) else none
  | .ldMemVx x =>
    if s.i.toNat + x.toNat > 4095 then some (.memoryOutOfBounds, some (max s.i.toNat 4096)) else none
  | .ldVxMem x =>
    if s.i.toNat + x.toNat > 4095 then some (.memoryOutOfBounds, some (max s.i.toNat 4096)) else none
  | _ => none

/-! ## What an event may change (R33) -/

/-- Some key is newly pressed (R30): down now, up at the last sample of the wait. -/
def State.hasNewKey (s : State) : Prop :=
  ∃ k : Fin 16, s.key[k.val]'k.isLt = true ∧ s.keyPrev[k.val]'k.isLt = false

/-- The parts a tick may change, besides the result. With the latch set: none (R122). In the wait state: those of
the completing tick if a key is newly pressed, else the sample of the keypad. Otherwise those of the instruction
executed if it completes, and the latch if the fetch, the decode or the instruction faults. -/
def tickMayChange (s : State) (p : Part) : Prop :=
  s.fault = none ∧
  if s.waiting then
    (s.hasNewKey ∧ (p = .v s.waitX ∨ p = .pc ∨ p = .waiting)) ∨ (¬ s.hasNewKey ∧ p = .keyPrev)
  else
    match tickInstr s with
    | none => p = .fault
    | some i => (executeFault s i = none ∧ Instr.writes s i p) ∨ (executeFault s i ≠ none ∧ p = .fault)

/-- The parts an event may change, from the table of R33. -/
def mayChange (s : State) : HostEvent → Part → Prop
  | .resetLoad _, _ => True
  | .setKey index _, p => p = .host ∨ ∃ k : Fin 16, p = .key k ∧ k.val = index.toNat
  | .advanceTimers, p => p = .host ∨ p = .dt ∨ p = .st
  | .tick _, p => p = .host ∨ p = .result ∨ tickMayChange s p

/-! ## The next PC (R116) -/

/-- The next PC of an instruction that completes, from the classes of R116, as an unbounded integer.
`s` is the state the instruction starts in. For the wait class it is the entering tick's. -/
def nextPc (s : State) : Instr → Nat
  | .jp nnn => nnn.toNat
  | .jpV0 nnn => nnn.toNat + (s.getV 0#4).toNat
  | .call nnn => nnn.toNat
  | .ret => if h : 0 < s.sp.val then (s.stack[s.sp.val - 1]'(by have := s.sp.isLt; omega)).toNat else s.pc.toNat
  | .seImm x kk => if s.getV x = kk then s.pc.toNat + 4 else s.pc.toNat + 2
  | .sneImm x kk => if s.getV x = kk then s.pc.toNat + 2 else s.pc.toNat + 4
  | .seReg x y => if s.getV x = s.getV y then s.pc.toNat + 4 else s.pc.toNat + 2
  | .sneReg x y => if s.getV x = s.getV y then s.pc.toNat + 2 else s.pc.toNat + 4
  | .skp x => if s.key.toList.getD (s.getV x).toNat false then s.pc.toNat + 4 else s.pc.toNat + 2
  | .sknp x => if s.key.toList.getD (s.getV x).toNat false then s.pc.toNat + 2 else s.pc.toNat + 4
  | .ldVxK _ => s.pc.toNat
  | _ => s.pc.toNat + 2

/-! ## Invariants -/

/-- Memory is in its canonical form. -/
def State.memoryCanonical (s : State) : Prop := s.mem.wf = true

/-- The wait state stands at the Fx0A that began it (R121): while `WAITING` is true no fault is latched and
the word at PC is the Fx0A whose register is in `WAIT_X`. -/
def State.waitConsistent (s : State) : Prop :=
  s.waiting = true → s.fault = none ∧ fetch s = .ok (encode (.ldVxK s.waitX))

/-- The values PC and the stack can hold in a run (R23): PC is at most 0x10FE and every occupied slot at
most 4096. -/
def State.addressesBounded (s : State) : Prop :=
  s.pc.toNat ≤ 0x10FE ∧ ∀ k : Fin params.stackCapacity, k.val < s.sp.val → (s.stack[k.val]'k.isLt).toNat ≤ 4096

/-- The latch shows nothing that the state does not (R254): unless a load failed, the tick run again without
the latch would raise the latched fault with the same record. -/
def State.latchReproducible (s : State) : Prop :=
  ∀ r, s.fault = some r → r.kind ≠ .programTooLarge →
    s.waiting = false ∧ tick { s with fault := none } = .next { s with result := .fault r }

end Sys2Proof.Machine
end

