-- ==== Sys2Proof/Certificates/Slice0/Obligations.lean ====
section
/-! DEFINITION. The statements for the provers. Each docstring names the rule of spec/ it formalises, and the
decision of 92_eei_decisions.md or the log entry where it rests on a choice. -/

open Sys2Proof Sys2Proof.Machine

/-! ## Encoding (30_encoding.md) -/

/-- The fields are those of the formulas of R81: `nnn = instruction & 0x0FFF`, `n = instruction & 0x000F`,
`x = (instruction >> 8) & 0x0F`, `y = (instruction >> 4) & 0x0F`, `kk = instruction & 0x00FF`. -/
def Obligations.FieldsFollowTheFormulas : Prop :=
  ∀ w : Word,
    (fieldNnn w).toNat = (w &&& 0x0FFF#16).toNat ∧
    (fieldN w).toNat = (w &&& 0x000F#16).toNat ∧
    (fieldX w).toNat = ((w >>> 8) &&& 0x0F#16).toNat ∧
    (fieldY w).toNat = ((w >>> 4) &&& 0x0F#16).toNat ∧
    (fieldKk w).toNat = (w &&& 0x00FF#16).toNat

/-- One word of each of the 16 families of R85, and a second one of family F, written out from the patterns of
R84, decodes to its instruction. -/
def Obligations.SampleWordsDecode : Prop :=
  decodeWord 0x00E0#16 = .ok .cls ∧
  decodeWord 0x1234#16 = .ok (.jp 0x234#12) ∧
  decodeWord 0x2ABC#16 = .ok (.call 0xABC#12) ∧
  decodeWord 0x332B#16 = .ok (.seImm 0x3#4 0x2B#8) ∧
  decodeWord 0x432A#16 = .ok (.sneImm 0x3#4 0x2A#8) ∧
  decodeWord 0x5120#16 = .ok (.seReg 0x1#4 0x2#4) ∧
  decodeWord 0x6A7F#16 = .ok (.ldImm 0xA#4 0x7F#8) ∧
  decodeWord 0x7AFF#16 = .ok (.addImm 0xA#4 0xFF#8) ∧
  decodeWord 0x8237#16 = .ok (.subn 0x2#4 0x3#4) ∧
  decodeWord 0x9120#16 = .ok (.sneReg 0x1#4 0x2#4) ∧
  decodeWord 0xAFFE#16 = .ok (.ldI 0xFFE#12) ∧
  decodeWord 0xB301#16 = .ok (.jpV0 0x301#12) ∧
  decodeWord 0xC30F#16 = .ok (.rnd 0x3#4 0x0F#8) ∧
  decodeWord 0xD125#16 = .ok (.drw 0x1#4 0x2#4 0x5#4) ∧
  decodeWord 0xE5A1#16 = .ok (.sknp 0x5#4) ∧
  decodeWord 0xF30A#16 = .ok (.ldVxK 0x3#4) ∧
  decodeWord 0xF433#16 = .ok (.ldBVx 0x4#4)

/-- Decoding the bytes of an encoded instruction gives it back, whatever follows it, for every instruction
and every value of its operands. -/
def Obligations.DecodeOfEncodeIsIdentity : Prop :=
  ∀ (i : Instr) (rest : List Byte), decode (bytesOfWord (encode i) ++ rest) = .ok (i, rest)

/-- A word that decodes is the encoding of its instruction, so a word has one meaning and an instruction one
word, the ignored field of SHR and SHL included (R86). -/
def Obligations.EncodeOfDecodeIsIdentity : Prop :=
  ∀ (w : Word) (i : Instr), decodeWord w = .ok i → encode i = w

/-- The decoder of R85 agrees with the opcode map of R84: a word that a row covers decodes to that row's
instruction, and a word that no row covers is invalid (R90). Since the mnemonics differ, no word is covered
by two rows. That the patterns are exact is decision D19. -/
def Obligations.DecoderAgreesWithOpcodeMap : Prop :=
  ∀ w : Word,
    (∀ row ∈ opcodeRows, row.covers w → ∃ i, decodeWord w = .ok i ∧ i.mnemonic = row.mnemonic) ∧
    ((∀ row ∈ opcodeRows, ¬ row.covers w) → decodeWord w = .error (.invalidOpcode w))

/-! ## The step (40_step.md, 48_host_interface.md) -/

/-- Fetch (R112): the word is `(MEM[PC] << 8) | MEM[PC+1]` exactly when PC is at most 4094, else the address
of MemoryOutOfBounds is 4096 for PC = 4095 and PC itself above that. -/
def Obligations.FetchIsBigEndianAndBounded : Prop :=
  ∀ s : State,
    (s.pc.toNat ≤ 4094 → ∃ w, fetch s = .ok w ∧
      w.toNat = (s.mem.read s.pc.toNat).toNat * 256 + (s.mem.read (s.pc.toNat + 1)).toNat) ∧
    (s.pc.toNat = 4095 → fetch s = .error 4096) ∧
    (4096 ≤ s.pc.toNat → fetch s = .error s.pc.toNat)

/-- A step with no host event listed runs the instruction the bytes at PC decode to, with a free byte on the
port `rnd` and nothing else around it; a listed `tick(r)` does the same with `r` (R111, R114, R115). That an
empty list means a tick is the model's choice (log entry 4), the free byte is log entry 3. -/
def Obligations.StepRunsDecodedInstruction : Prop :=
  ∀ (s : State) (i : Instr) (rest : List Byte),
    s.fault = none → s.waiting = false → s.pc.toNat ≤ 4094 →
    decode [s.mem.read s.pc.toNat, s.mem.read (s.pc.toNat + 1)] = .ok (i, rest) →
    (s.pending = [] →
      step s = exec i { s with rnd := Config.freeRnd s.rndCount, rndCount := s.rndCount + 1 }) ∧
    (∀ r es, s.pending = .tick r :: es → step s = exec i { s with rnd := r, pending := es })

/-- A step takes the first event the host has listed and no other (R230 to R234): the timers count, the key
flag is set, the machine is loaded, or the tick runs with the byte given. The list is the model's (log entry 4). -/
def Obligations.StepTakesTheNextHostEvent : Prop :=
  ∀ (s : State) (es : List HostEvent),
    (s.pending = .advanceTimers :: es → step s = .next (advanceTimers { s with pending := es })) ∧
    (∀ k b, s.pending = .setKey k b :: es → step s = .next (setKey k b { s with pending := es })) ∧
    (∀ p, s.pending = .resetLoad p :: es → step s = .next (resetLoad p { s with pending := es })) ∧
    (∀ r, s.pending = .tick r :: es → step s = tick { s with rnd := r, pending := es })

/-- The machine answers a next state to every event in every state: the faults of R250 are states with the
latch set (log entry 1), no instruction is refused, no step stops. -/
def Obligations.EveryStepHasANextState : Prop := ∀ s : State, ∃ t, step s = .next t

/-- The program counter discipline (R116): an instruction that ends without fault leaves in PC the value of
its class, and nothing is added to it. For Fx0A it is the entering tick; the ticks of the wait (D9) are in
WaitTickEndsOnANewKey. -/
def Obligations.PcFollowsItsClass : Prop :=
  ∀ (i : Instr) (s t : State), s.fault = none → exec i s = .next t → t.fault = none →
    t.pc = BitVec.ofNat 16 (nextPc s i)

/-- The signal of a tick that ended without fault (R118 to R120): Draw with the grid after the blit for Dxyn,
else Beep if `ST > 0` afterwards, else Nothing. The priority is decision D14, Draw for every Dxyn D15, no
Draw for CLS D16. -/
def Obligations.SignalOfEveryInstruction : Prop :=
  ∀ (i : Instr) (s t : State), s.fault = none → exec i s = .next t → t.fault = none →
    ((∃ x y n, i = .drw x y n) → t.result = .ok (.draw t.fb)) ∧
    ((¬ ∃ x y n, i = .drw x y n) → t.result = .ok (if 0 < t.st.toNat then .beep else .nothing))

/-- Who writes what (R33): every part of the state changes only in an event, and under an instruction that
completes, that the table lists for it; in the wait state PC and V[WAIT_X] only in a tick that sees a new key.
What counts as a new key is D9 (log entry 12), that a faulting tick changes the latch alone is D11 and D12, that
I and VF are left alone where no effect is written is D28 and D29 (log entry 19). -/
def Obligations.EventsWriteOnlyWhatTheTableLists : Prop :=
  ∀ (s t : State) (p : Part), step s = .next t → ¬ p.same s t → mayChange s (nextEvent s) p

/-- A tick that does not execute Cxkk ignores the random byte (R154, D17): with another byte on the port the
next state is the same but for the port itself. -/
def Obligations.OnlyRndReadsTheRandomByte : Prop :=
  ∀ (s t : State) (b : Byte), (∀ x kk, tickInstr s ≠ some (.rnd x kk)) → tick s = .next t →
    tick { s with rnd := b } = .next { t with rnd := b }

/-! ## Control transfer (41_control_flow.md) -/

/-- RET (R131): pops the return address into PC, or StackUnderflow when the stack is empty. The latch of the
fault is D12, its record D13. -/
def Obligations.RetPopsTheReturnAddress : Prop :=
  ∀ s : State,
    (∀ k : Fin params.stackCapacity, s.sp.val = k.val + 1 → ∃ t, exec .ret s = .next t ∧
      t.sp.val = k.val ∧ t.pc = s.stack[k.val]'k.isLt ∧
      Unchanged (· ∈ [.sp, .pc, .result]) s t) ∧
    (s.sp.val = 0 → ∃ t r, exec .ret s = .next t ∧ r.kind = .stackUnderflow ∧ FaultsWith r s t)

/-- JP (R132) and JP V0 (R137): PC is the target, nothing is added, nothing else changes. -/
def Obligations.JumpsSetPc : Prop :=
  ∀ (nnn : Addr) (s : State),
    (∃ t, exec (.jp nnn) s = .next t ∧ t.pc.toNat = nnn.toNat ∧ Unchanged (· ∈ [.pc, .result]) s t) ∧
    (∃ t, exec (.jpV0 nnn) s = .next t ∧ t.pc.toNat = nnn.toNat + (s.getV 0#4).toNat ∧
      Unchanged (· ∈ [.pc, .result]) s t)

/-- CALL (R133): pushes PC + 2 and jumps, or StackOverflow when the stack is full. The capacity is D6, the latch
of the fault D12. -/
def Obligations.CallPushesTheReturnAddress : Prop :=
  ∀ (nnn : Addr) (s : State),
    (∀ k : Fin params.stackCapacity, s.sp.val = k.val → ∃ t, exec (.call nnn) s = .next t ∧
      t.stack[k.val]'k.isLt = s.pc + 2#16 ∧ t.sp.val = k.val + 1 ∧ t.pc.toNat = nnn.toNat ∧
      Unchanged (· ∈ [.slot k, .sp, .pc, .result]) s t) ∧
    (s.sp.val = params.stackCapacity →
      ∃ t r, exec (.call nnn) s = .next t ∧ r.kind = .stackOverflow ∧ FaultsWith r s t)

/-- A RET right after a CALL comes back (the source's example of R131 and R133): PC is the address after the
CALL, and the depth and every occupied slot are as before the CALL. -/
def Obligations.RetAfterCallComesBack : Prop :=
  ∀ (nnn : Addr) (s : State), s.sp.val < params.stackCapacity →
    ∃ t u, exec (.call nnn) s = .next t ∧ exec .ret t = .next u ∧
      u.pc = s.pc + 2#16 ∧ u.sp = s.sp ∧
      (∀ k : Fin params.stackCapacity, k.val < s.sp.val → u.stack[k.val]'k.isLt = s.stack[k.val]'k.isLt) ∧
      u.v = s.v ∧ u.i = s.i ∧ u.mem = s.mem ∧ u.fb = s.fb

/-- The four skips on registers (R134, R135, R136, R138): PC + 4 when the condition holds, else PC + 2. -/
def Obligations.SkipsCompareRegisters : Prop :=
  ∀ (x y : Reg) (kk : Byte) (s : State),
    (∃ t, exec (.seImm x kk) s = .next t ∧
      t.pc = (if s.getV x = kk then s.pc + 4#16 else s.pc + 2#16) ∧ Unchanged (· ∈ [.pc, .result]) s t) ∧
    (∃ t, exec (.sneImm x kk) s = .next t ∧
      t.pc = (if s.getV x ≠ kk then s.pc + 4#16 else s.pc + 2#16) ∧ Unchanged (· ∈ [.pc, .result]) s t) ∧
    (∃ t, exec (.seReg x y) s = .next t ∧
      t.pc = (if s.getV x = s.getV y then s.pc + 4#16 else s.pc + 2#16) ∧ Unchanged (· ∈ [.pc, .result]) s t) ∧
    (∃ t, exec (.sneReg x y) s = .next t ∧
      t.pc = (if s.getV x ≠ s.getV y then s.pc + 4#16 else s.pc + 2#16) ∧ Unchanged (· ∈ [.pc, .result]) s t)

/-! ## Loads, add immediate, random (42_load_add_rnd.md) -/

/-- LD Vx, byte (R150): V[x] is kk, whatever it held, and PC advances by 2. -/
def Obligations.LdImmLoadsTheImmediate : Prop :=
  ∀ (x : Reg) (kk : Byte) (s : State), ∃ t, exec (.ldImm x kk) s = .next t ∧
    t.getV x = kk ∧ t.pc = s.pc + 2#16 ∧ Unchanged (· ∈ [.v x, .pc, .result]) s t

/-- ADD Vx, byte (R151): the sum wraps at 256 and no flag is written (D28). -/
def Obligations.AddImmWrapsWithoutFlag : Prop :=
  ∀ (x : Reg) (kk : Byte) (s : State), ∃ t, exec (.addImm x kk) s = .next t ∧
    (t.getV x).toNat = ((s.getV x).toNat + kk.toNat) % 256 ∧ t.pc = s.pc + 2#16 ∧
    Unchanged (· ∈ [.v x, .pc, .result]) s t

/-- LD I, addr (R152): I is nnn, so it is a valid address. -/
def Obligations.LdILoadsTheAddress : Prop :=
  ∀ (nnn : Addr) (s : State), ∃ t, exec (.ldI nnn) s = .next t ∧
    t.i.toNat = nnn.toNat ∧ t.i.toNat ≤ 4095 ∧ t.pc = s.pc + 2#16 ∧ Unchanged (· ∈ [.i, .pc, .result]) s t

/-- RND Vx, byte (R153): V[x] is the random byte of the tick and kk, for every value of the byte, so a bit of
V[x] can be 1 only where kk has a 1. -/
def Obligations.RndMasksTheRandomByte : Prop :=
  ∀ (x : Reg) (kk : Byte) (s : State), ∃ t, exec (.rnd x kk) s = .next t ∧
    t.getV x = s.rnd &&& kk ∧ (∀ n, kk.getLsbD n = false → (t.getV x).getLsbD n = false) ∧
    t.pc = s.pc + 2#16 ∧ Unchanged (· ∈ [.v x, .pc, .result]) s t

/-! ## The register family 8xy_ (43_alu.md) -/

/-- LD, OR, AND and XOR (R161 to R164): V[x] is the result, and VF is not touched unless it is V[x] (D28). -/
def Obligations.MovesAndLogicWriteOneRegister : Prop :=
  ∀ (x y : Reg) (s : State),
    (∃ t, exec (.ldReg x y) s = .next t ∧ t.getV x = s.getV y ∧ t.pc = s.pc + 2#16 ∧
      Unchanged (· ∈ [.v x, .pc, .result]) s t) ∧
    (∃ t, exec (.orReg x y) s = .next t ∧
      (∀ n, n < 8 → (t.getV x).getLsbD n = ((s.getV x).getLsbD n || (s.getV y).getLsbD n)) ∧
      t.pc = s.pc + 2#16 ∧ Unchanged (· ∈ [.v x, .pc, .result]) s t) ∧
    (∃ t, exec (.andReg x y) s = .next t ∧
      (∀ n, n < 8 → (t.getV x).getLsbD n = ((s.getV x).getLsbD n && (s.getV y).getLsbD n)) ∧
      t.pc = s.pc + 2#16 ∧ Unchanged (· ∈ [.v x, .pc, .result]) s t) ∧
    (∃ t, exec (.xorReg x y) s = .next t ∧
      (∀ n, n < 8 → (t.getV x).getLsbD n = ((s.getV x).getLsbD n ^^ (s.getV y).getLsbD n)) ∧
      t.pc = s.pc + 2#16 ∧ Unchanged (· ∈ [.v x, .pc, .result]) s t)

/-- ADD Vx, Vy (R165) with a destination other than VF: the sum mod 256, and VF is the carry. -/
def Obligations.AddRegSetsCarry : Prop :=
  ∀ (x y : Reg) (s : State), x ≠ regF → ∃ t, exec (.addReg x y) s = .next t ∧
    (t.getV x).toNat = ((s.getV x).toNat + (s.getV y).toNat) % 256 ∧
    t.getV regF = (if (s.getV x).toNat + (s.getV y).toNat > 255 then 1#8 else 0#8) ∧
    t.pc = s.pc + 2#16 ∧ Unchanged (· ∈ [.v x, .v regF, .pc, .result]) s t

/-- SUB (R166) and SUBN (R168) with a destination other than VF: the difference mod 256, and VF is 1 exactly
when no borrow occurs, equality included. -/
def Obligations.SubtractionsSetNotBorrow : Prop :=
  ∀ (x y : Reg) (s : State), x ≠ regF →
    (∃ t, exec (.sub x y) s = .next t ∧
      (t.getV x).toNat = ((s.getV x).toNat + 256 - (s.getV y).toNat) % 256 ∧
      t.getV regF = (if (s.getV x).toNat ≥ (s.getV y).toNat then 1#8 else 0#8) ∧
      t.pc = s.pc + 2#16 ∧ Unchanged (· ∈ [.v x, .v regF, .pc, .result]) s t) ∧
    (∃ t, exec (.subn x y) s = .next t ∧
      (t.getV x).toNat = ((s.getV y).toNat + 256 - (s.getV x).toNat) % 256 ∧
      t.getV regF = (if (s.getV y).toNat ≥ (s.getV x).toNat then 1#8 else 0#8) ∧
      t.pc = s.pc + 2#16 ∧ Unchanged (· ∈ [.v x, .v regF, .pc, .result]) s t)

/-- SHR (R167) and SHL (R169) with a destination other than VF: V[x] is shifted in place by one with zero
fill, VF is the bit shifted out, and the field y has no effect (R86). -/
def Obligations.ShiftsSetTheBitShiftedOut : Prop :=
  ∀ (x y : Reg) (s : State), x ≠ regF →
    (∃ t, exec (.shr x y) s = .next t ∧
      (t.getV x).toNat = (s.getV x).toNat / 2 ∧ (t.getV regF).toNat = (s.getV x).toNat % 2 ∧
      t.pc = s.pc + 2#16 ∧ Unchanged (· ∈ [.v x, .v regF, .pc, .result]) s t) ∧
    (∃ t, exec (.shl x y) s = .next t ∧
      (t.getV x).toNat = (s.getV x).toNat * 2 % 256 ∧ (t.getV regF).toNat = (s.getV x).toNat / 128 ∧
      t.pc = s.pc + 2#16 ∧ Unchanged (· ∈ [.v x, .v regF, .pc, .result]) s t)

/-- The five flag instructions with VF as destination (R170, D20): the flag is written first, so VF ends with the
result, computed from the old values. The last clause is about the two writes alone: for either value of
VF_WRITE_LAST, false being the one this hardware takes (log entry 10), V[15] ends as the one written last. -/
def Obligations.FlagInstructionsOnVf : Prop :=
  ∀ (y : Reg) (s : State),
    (∃ t, exec (.addReg regF y) s = .next t ∧
      (t.getV regF).toNat = ((s.getV regF).toNat + (s.getV y).toNat) % 256 ∧
      t.pc = s.pc + 2#16 ∧ Unchanged (· ∈ [.v regF, .pc, .result]) s t) ∧
    (∃ t, exec (.sub regF y) s = .next t ∧
      (t.getV regF).toNat = ((s.getV regF).toNat + 256 - (s.getV y).toNat) % 256 ∧
      t.pc = s.pc + 2#16 ∧ Unchanged (· ∈ [.v regF, .pc, .result]) s t) ∧
    (∃ t, exec (.subn regF y) s = .next t ∧
      (t.getV regF).toNat = ((s.getV y).toNat + 256 - (s.getV regF).toNat) % 256 ∧
      t.pc = s.pc + 2#16 ∧ Unchanged (· ∈ [.v regF, .pc, .result]) s t) ∧
    (∃ t, exec (.shr regF y) s = .next t ∧ (t.getV regF).toNat = (s.getV regF).toNat / 2 ∧
      t.pc = s.pc + 2#16 ∧ Unchanged (· ∈ [.v regF, .pc, .result]) s t) ∧
    (∃ t, exec (.shl regF y) s = .next t ∧ (t.getV regF).toNat = (s.getV regF).toNat * 2 % 256 ∧
      t.pc = s.pc + 2#16 ∧ Unchanged (· ∈ [.v regF, .pc, .result]) s t) ∧
    (∀ (vfWriteLast : Bool) (res : Byte) (flag : Bool),
      ((s.setResultAndFlag vfWriteLast regF res flag).getV regF).toNat =
        if vfWriteLast then (if flag then 1 else 0) else res.toNat)

/-! ## Display (44_display.md) -/

/-- CLS (R180): all 2048 cells are false, whatever they were. That the signal is Beep or Nothing is D14 and
D16. -/
def Obligations.ClsClearsEveryCell : Prop :=
  ∀ s : State, ∃ t, exec .cls s = .next t ∧
    (∀ r c, t.fb.cell r c = false) ∧ t.pc = s.pc + 2#16 ∧
    t.result = .ok (if 0 < s.st.toNat then .beep else .nothing) ∧
    Unchanged (fun p => p = .pc ∨ p = .result ∨ ∃ r c, p = .cell r c) s t

/-- DRW with every row in range (R181 to R186), in closed form: pixel (r, c) of the sprite, bit 7 - c of
MEM[I + r], is XORed into the cell at row (V[y] + r) mod 32 and column (V[x] + c) mod 64, every other cell is
as before, and VF is 1 exactly when a sprite bit 1 met a cell that was true before the instruction. With n = 0
nothing is read and no cell changes. I is unchanged (D29), the signal is Draw of the new grid (D15). -/
def Obligations.DrwXorsTheSprite : Prop :=
  ∀ (x y : Reg) (n : Nibble) (s : State), n.toNat = 0 ∨ s.i.toNat + n.toNat - 1 ≤ 4095 →
    ∃ t, exec (.drw x y n) s = .next t ∧
      (∀ r c, r < n.toNat → c < 8 →
        t.fb.cell (Fin.ofNat 32 ((s.getV y).toNat + r)) (Fin.ofNat 64 ((s.getV x).toNat + c)) =
          (s.fb.cell (Fin.ofNat 32 ((s.getV y).toNat + r)) (Fin.ofNat 64 ((s.getV x).toNat + c)) ^^
            (s.mem.read (s.i.toNat + r)).getLsbD (7 - c))) ∧
      (∀ (cy : Fin 32) (cx : Fin 64),
        (∀ r c, r < n.toNat → c < 8 →
          ¬ (cy.val = ((s.getV y).toNat + r) % 32 ∧ cx.val = ((s.getV x).toNat + c) % 64)) →
        t.fb.cell cy cx = s.fb.cell cy cx) ∧
      (t.getV regF = 0#8 ∨ t.getV regF = 1#8) ∧
      (t.getV regF = 1#8 ↔ ∃ r c, r < n.toNat ∧ c < 8 ∧
        s.fb.cell (Fin.ofNat 32 ((s.getV y).toNat + r)) (Fin.ofNat 64 ((s.getV x).toNat + c)) = true ∧
        (s.mem.read (s.i.toNat + r)).getLsbD (7 - c) = true) ∧
      t.pc = s.pc + 2#16 ∧ t.result = .ok (.draw t.fb) ∧
      Unchanged (fun p => p = .v regF ∨ p = .pc ∨ p = .result ∨ ∃ r c, p = .cell r c) s t

/-- Drawing the same sprite twice at the same place restores the grid (R187), whatever the grid held. -/
def Obligations.DrawingTwiceRestoresTheGrid : Prop :=
  ∀ (startX startY : Byte) (rows : List Byte) (d : Display), rows.length ≤ 15 →
    (blit startX startY rows (blit startX startY rows d).1).1 = d

/-! ## Keypad (45_keypad.md) -/

/-- SKP (R190) and SKNP (R191) with an index of at most 15: the skip follows the key flag. -/
def Obligations.KeySkipsFollowTheKey : Prop :=
  ∀ (x : Reg) (s : State) (k : Fin 16), (s.getV x).toNat = k.val →
    (∃ t, exec (.skp x) s = .next t ∧
      t.pc = (if s.key[k.val]'k.isLt = true then s.pc + 4#16 else s.pc + 2#16) ∧
      Unchanged (· ∈ [.pc, .result]) s t) ∧
    (∃ t, exec (.sknp x) s = .next t ∧
      t.pc = (if s.key[k.val]'k.isLt = true then s.pc + 2#16 else s.pc + 4#16) ∧
      Unchanged (· ∈ [.pc, .result]) s t)

/-- Fx0A, the entering tick (R194, D9): the wait begins, the register and the keypad are latched, and PC and
everything else is unchanged, whether or not keys are held. -/
def Obligations.KeyWaitBegins : Prop :=
  ∀ (x : Reg) (s : State), ∃ t, exec (.ldVxK x) s = .next t ∧
    t.waiting = true ∧ t.waitX = x ∧ t.keyPrev = s.key ∧
    t.result = .ok (if 0 < s.st.toNat then .beep else .nothing) ∧
    Unchanged (· ∈ [.waiting, .waitX, .keyPrev, .result]) s t

/-- A tick in the wait state (R121, R195, R196, D9, D10, D34): if k is the lowest key that is down now and was
up at the last sample, V[WAIT_X] is k, PC advances by 2 and the wait ends; if there is none, only the sample is
renewed. Neither can fault or fetch. -/
def Obligations.WaitTickEndsOnANewKey : Prop :=
  ∀ s : State, s.fault = none → s.waiting = true →
    (∀ k : Fin 16, s.key[k.val]'k.isLt = true → s.keyPrev[k.val]'k.isLt = false →
      (∀ j : Fin 16, j.val < k.val → ¬ (s.key[j.val]'j.isLt = true ∧ s.keyPrev[j.val]'j.isLt = false)) →
      ∃ t, tick s = .next t ∧ (t.getV s.waitX).toNat = k.val ∧ t.pc = s.pc + 2#16 ∧ t.waiting = false ∧
        t.result = .ok (if 0 < s.st.toNat then .beep else .nothing) ∧
        Unchanged (· ∈ [.v s.waitX, .pc, .waiting, .result]) s t) ∧
    ((∀ k : Fin 16, ¬ (s.key[k.val]'k.isLt = true ∧ s.keyPrev[k.val]'k.isLt = false)) →
      ∃ t, tick s = .next t ∧ t.keyPrev = s.key ∧
        t.result = .ok (if 0 < s.st.toNat then .beep else .nothing) ∧
        Unchanged (· ∈ [.keyPrev, .result]) s t)

/-! ## F family (46_misc_f.md) -/

/-- LD Vx, DT (R200): V[x] is the current count, and DT is unchanged. -/
def Obligations.LdVxDtReadsTheDelayTimer : Prop :=
  ∀ (x : Reg) (s : State), ∃ t, exec (.ldVxDt x) s = .next t ∧
    t.getV x = s.dt ∧ t.pc = s.pc + 2#16 ∧ Unchanged (· ∈ [.v x, .pc, .result]) s t

/-- LD DT, Vx (R201) and LD ST, Vx (R202): the timer is V[x], and the tick that writes ST returns Beep exactly
when the value written is not 0, as the `beep` output then shows (R120; the choice among signals is D14, the
port D32). -/
def Obligations.TimerLoadsWriteTheTimer : Prop :=
  ∀ (x : Reg) (s : State),
    (∃ t, exec (.ldDtVx x) s = .next t ∧
      t.dt = s.getV x ∧ t.pc = s.pc + 2#16 ∧ Unchanged (· ∈ [.dt, .pc, .result]) s t) ∧
    (∃ t, exec (.ldStVx x) s = .next t ∧
      t.st = s.getV x ∧ t.pc = s.pc + 2#16 ∧
      (0 < (s.getV x).toNat → t.result = .ok .beep ∧ portBeep t = true) ∧
      ((s.getV x).toNat = 0 → t.result = .ok .nothing ∧ portBeep t = false) ∧
      Unchanged (· ∈ [.st, .pc, .result]) s t)

/-- ADD I, Vx (R203): I wraps at 16 bits, no flag is written whatever the sum (D28), and no fault is raised. -/
def Obligations.AddIWrapsWithoutFlag : Prop :=
  ∀ (x : Reg) (s : State), ∃ t, exec (.addIVx x) s = .next t ∧
    t.i.toNat = (s.i.toNat + (s.getV x).toNat) % 65536 ∧ t.pc = s.pc + 2#16 ∧
    Unchanged (· ∈ [.i, .pc, .result]) s t

/-- LD F, Vx (R204): I is V[x] * 5, of the whole byte. -/
def Obligations.LdFMultipliesByFive : Prop :=
  ∀ (x : Reg) (s : State), ∃ t, exec (.ldFVx x) s = .next t ∧
    t.i.toNat = (s.getV x).toNat * 5 ∧ t.pc = s.pc + 2#16 ∧ Unchanged (· ∈ [.i, .pc, .result]) s t

/-- LD B, Vx (R206) with its three bytes in range: hundreds, tens and units of V[x] at I, I + 1 and I + 2,
every other byte as before, I unchanged (D29). The premise on memory is the invariant of StepKeepsMemoryCanonical. -/
def Obligations.BcdStoresThreeDigits : Prop :=
  ∀ (x : Reg) (s : State), s.memoryCanonical → s.i.toNat + 2 ≤ 4095 →
    ∃ t, exec (.ldBVx x) s = .next t ∧
      (t.mem.read s.i.toNat).toNat = (s.getV x).toNat / 100 ∧
      (t.mem.read (s.i.toNat + 1)).toNat = (s.getV x).toNat / 10 % 10 ∧
      (t.mem.read (s.i.toNat + 2)).toNat = (s.getV x).toNat % 10 ∧
      t.pc = s.pc + 2#16 ∧
      Unchanged (fun p => p = .pc ∨ p = .result ∨ ∃ k, k ≤ 2 ∧ p = .mem (s.i.toNat + k)) s t

/-- LD [I], Vx (R207) with its bytes in range: V[k] at I + k for every k up to x (D24), every other byte as
before, the registers and I unchanged (D29). -/
def Obligations.StoreWritesRegistersUpToX : Prop :=
  ∀ (x : Reg) (s : State), s.memoryCanonical → s.i.toNat + x.toNat ≤ 4095 →
    ∃ t, exec (.ldMemVx x) s = .next t ∧
      (∀ r : Reg, r ≤ x → t.mem.read (s.i.toNat + r.toNat) = s.getV r) ∧
      t.pc = s.pc + 2#16 ∧
      Unchanged (fun p => p = .pc ∨ p = .result ∨ ∃ k, k ≤ x.toNat ∧ p = .mem (s.i.toNat + k)) s t

/-- LD Vx, [I] (R208) with its bytes in range: V[k] is the byte at I + k for every k up to x (D24), the
registers above x, memory and I unchanged (D29). -/
def Obligations.LoadReadsRegistersUpToX : Prop :=
  ∀ (x : Reg) (s : State), s.i.toNat + x.toNat ≤ 4095 →
    ∃ t, exec (.ldVxMem x) s = .next t ∧
      (∀ r : Reg, r ≤ x → t.getV r = s.mem.read (s.i.toNat + r.toNat)) ∧
      t.pc = s.pc + 2#16 ∧
      Unchanged (fun p => p = .pc ∨ p = .result ∨ ∃ r : Reg, r ≤ x ∧ p = .v r) s t

/-- Fx55 followed by Fx65 with the same x and I gives back every register (the last sentence of R208). -/
def Obligations.LoadAfterStoreRestores : Prop :=
  ∀ (x : Reg) (s : State), s.memoryCanonical → s.i.toNat + x.toNat ≤ 4095 →
    ∃ t u, exec (.ldMemVx x) s = .next t ∧ exec (.ldVxMem x) t = .next u ∧ u.v = s.v ∧ u.mem = t.mem

/-- Fetch coherence (R65): the fetch of the instruction after an Fx55 reads the bytes it stored. -/
def Obligations.FetchSeesStoredBytes : Prop :=
  ∀ (x r : Reg) (s : State), s.memoryCanonical → s.i.toNat + x.toNat ≤ 4095 → r < x →
    ∃ t, exec (.ldMemVx x) s = .next t ∧
      ((s.pc + 2#16).toNat = s.i.toNat + r.toNat →
        fetch t = .ok (wordOfBytes (s.getV r) (s.getV (r + 1#4))))

/-! ## Timers, keys, reset (47_timer_countdown.md, 48_host_interface.md, 70_reset_and_hazards.md) -/

/-- `advance_timers()` (R221): each timer loses 1 if it is above 0, and nothing else changes, in every state. That
waiting and faulted states are among them is D25 (R224, log entry 20). -/
def Obligations.TimersCountDownToZero : Prop :=
  ∀ s : State,
    (advanceTimers s).dt.toNat = s.dt.toNat - 1 ∧ (advanceTimers s).st.toNat = s.st.toNat - 1 ∧
    Unchanged (· ∈ [.dt, .st]) s (advanceTimers s)

/-- The floor (R222): after k events a timer is its value less k, and stays at 0 from there on, in every state (D25,
log entry 20). -/
def Obligations.TimersReachZeroAndStay : Prop :=
  ∀ (s : State) (k : Nat),
    (advanceTimers^[k] s).dt.toNat = s.dt.toNat - k ∧ (advanceTimers^[k] s).st.toNat = s.st.toNat - k

/-- What a program can rely on (R226, derived by the spec from R221 and R222): along any steps in which no Fx15
is executed and no reset happens, DT is its first value less the number of `advance_timers` events, capped. -/
def Obligations.DelayTimerCountsTimerEvents : Prop :=
  ∀ (run : Nat → State) (k : Nat),
    (∀ j < k, step (run j) = .next (run (j + 1))) →
    (∀ j < k, (∀ p, nextEvent (run j) ≠ .resetLoad p) ∧ ∀ x, executed (run j) ≠ some (.ldDtVx x)) →
    (run k).dt.toNat =
      (run 0).dt.toNat - ((List.range k).filter fun j => nextEvent (run j) = .advanceTimers).length

/-- `set_key` (R234): the flag named is set, and nothing else changes, the sample of a waiting core included.
The index port of 4 bits is decision D36. -/
def Obligations.SetKeySetsOneFlag : Prop :=
  ∀ (s : State) (k : Fin 16) (b : Bool),
    ((setKey (BitVec.ofNat 4 k.val) b s).key[k.val]'k.isLt) = b ∧
    Unchanged (· ∈ [.key k]) s (setKey (BitVec.ofNat 4 k.val) b s)

/-- Reset with a program that fits (R270): the font is loaded, PC is 0x200 and the program is at 0x200. -/
def Obligations.ResetLoadsFontPcAndProgram : Prop :=
  ∀ (s : State) (program : List Byte), program.length ≤ 3584 →
    (resetLoad program s).pc = 0x200#16 ∧
    (∀ a, a < 80 → some ((resetLoad program s).mem.read a) = params.font[a]?) ∧
    (∀ j (h : j < program.length), (resetLoad program s).mem.read (0x200 + j) = program[j])

/-- The rest of the state after such a reset, all of it the spec's choice (R271, decisions D1 to D5, D9, D12;
the result is the model's choice, log entry 6): every other byte 0, registers, timers, stack depth, keys, the
items of the wait and display clear, no wait and no fault. -/
def Obligations.ResetClearsTheRest : Prop :=
  ∀ (s : State) (program : List Byte), program.length ≤ 3584 →
    (∀ a, 80 ≤ a → (a < 0x200 ∨ 0x200 + program.length ≤ a) → (resetLoad program s).mem.read a = 0#8) ∧
    (∀ r, (resetLoad program s).getV r = 0#8) ∧ (resetLoad program s).i = 0#16 ∧
    (resetLoad program s).dt = 0#8 ∧ (resetLoad program s).st = 0#8 ∧ (resetLoad program s).sp = 0 ∧
    (∀ k : Fin 16, (resetLoad program s).key[k.val]'k.isLt = false) ∧
    (∀ r c, (resetLoad program s).fb.cell r c = false) ∧
    (resetLoad program s).waiting = false ∧ (resetLoad program s).waitX = 0#4 ∧
    (∀ k : Fin 16, (resetLoad program s).keyPrev[k.val]'k.isLt = false) ∧ (resetLoad program s).fault = none ∧
    (resetLoad program s).result = .ok .nothing ∧ (resetLoad program s).memoryCanonical

/-- A program of more than 3584 bytes (R272, decision D31): ProgramTooLarge is latched with the length, no
byte is copied, the state is otherwise that of a reset, and every later tick returns the fault. -/
def Obligations.TooLargeProgramIsRefused : Prop :=
  ∀ (s t : State) (program : List Byte), 3584 < program.length → t = resetLoad program s →
    t.fault = some ⟨.programTooLarge, none, none, some program.length⟩ ∧
    t = { resetLoad [] s with fault := t.fault, result := t.result } ∧
    (∀ a, 0x200 ≤ a → t.mem.read a = 0#8) ∧
    tick t = .next { t with result := .fault ⟨.programTooLarge, none, none, some program.length⟩ }

/-! ## Faults (60_exceptions.md) -/

/-- Which instruction faults when, and with what record (R250, R251, R256 to R259, R261; the record is D13, D30,
the kind of Ex9E and ExA1 D8): the execute phase latches the fault of the tables with PC and the instruction's
word, exactly when its condition holds, and then nothing else changes (R252, D11). -/
def Obligations.ExecuteFaultsExactlyAsListed : Prop :=
  ∀ (i : Instr) (s : State), s.fault = none → ∃ t, exec i s = .next t ∧
    (executeFault s i = none → t.fault = none) ∧
    (∀ kind addr, executeFault s i = some (kind, addr) → FaultsWith ⟨kind, some s.pc, some (encode i), addr⟩ s t)

/-- InvalidOpcode (R255, R90): a fetched word that no row of the opcode map covers is reported with the PC and
the raw word, and the machine state is otherwise untouched. The latch is decision D12. -/
def Obligations.InvalidWordIsReported : Prop :=
  ∀ (s : State) (w : Word), s.fault = none → s.waiting = false → fetch s = .ok w →
    (∀ row ∈ opcodeRows, ¬ row.covers w) →
    ∃ t, tick s = .next t ∧ FaultsWith ⟨.invalidOpcode, some s.pc, some w, none⟩ s t

/-- A fetch out of range (R112, R256; the record is D13, D30, the latch D12): MemoryOutOfBounds with PC, no word,
and PC itself or 4096 as the address. -/
def Obligations.FetchOutOfRangeIsReported : Prop :=
  ∀ s : State, s.fault = none → s.waiting = false → 4095 ≤ s.pc.toNat →
    ∃ t, tick s = .next t ∧
      FaultsWith ⟨.memoryOutOfBounds, some s.pc, none, some (max s.pc.toNat 4096)⟩ s t

/-- Every fault is precise (R252, R262, R264; D11 for the execute phase): a tick that latches a fault leaves every
other part of the state as it was, returns the record, and the record's pc is that of the faulting instruction. -/
def Obligations.FaultsArePrecise : Prop :=
  ∀ (s t : State) (r : FaultRecord), s.fault = none → tick s = .next t → t.fault = some r →
    s.waiting = false ∧ FaultsWith r s t ∧ r.pc = some s.pc

/-- After a fault (R122, R254, D12, D25): a tick returns the latched record and changes nothing, `set_key` and
`advance_timers` keep the latch, and a load of a program that fits clears it. -/
def Obligations.LatchHoldsUntilReset : Prop :=
  ∀ (s : State) (r : FaultRecord), s.fault = some r →
    (∃ t, tick s = .next t ∧ t.result = .fault r ∧ Unchanged (· ∈ [.result]) s t) ∧
    (advanceTimers s).fault = some r ∧ (∀ k b, (setKey k b s).fault = some r) ∧
    (∀ p : List Byte, p.length ≤ 3584 → (resetLoad p s).fault = none)

/-- A parked core (R243): at a `1nnn` whose target is its own address a tick changes nothing but the result. -/
def Obligations.ParkedCoreStays : Prop :=
  ∀ s : State, s.parked → ∃ t, tick s = .next t ∧ t.parked ∧ Unchanged (· ∈ [.result]) s t

/-! ## Invariants -/

/-- The invariants hold right after reset. -/
def Obligations.ResetMeetsTheInvariants : Prop :=
  State.reset.memoryCanonical ∧ State.reset.waitConsistent ∧ State.reset.addressesBounded ∧
    State.reset.latchReproducible

/-- Every step keeps memory in its canonical form, so that equal memories are equal data. -/
def Obligations.StepKeepsMemoryCanonical : Prop :=
  ∀ s t : State, s.memoryCanonical → step s = .next t → t.memoryCanonical

/-- While the core waits, the word at PC stays the Fx0A that was latched (R121, derived by the spec from R33), and
no fault is latched. -/
def Obligations.StepKeepsWaitConsistent : Prop :=
  ∀ s t : State, s.waitConsistent → step s = .next t → t.waitConsistent

/-- PC and the stack stay in the range of R23 (derived by the spec): no instruction wraps PC at the top of
memory. The wait invariant is carried along, since a completing tick adds 2 to PC. -/
def Obligations.StepKeepsAddressesBounded : Prop :=
  ∀ s t : State, s.waitConsistent → s.addressesBounded → step s = .next t → t.addressesBounded

/-- The latch shows nothing that the state does not (R254, derived by the spec; D12): whatever the host does
after a fault short of a reset, the tick without the latch would raise the same fault with the same record. -/
def Obligations.StepKeepsLatchReproducible : Prop :=
  ∀ s t : State, s.latchReproducible → step s = .next t → t.latchReproducible
end

