-- ==== Sys2Proof/Laws/Memory.lean ====
section
/-! SUPPORT. The laws of memory: every operation keeps the canonical form, a read after a write. -/

namespace Sys2Proof.Machine

theorem Memory.wfFrom_cons {lo a : Nat} {b : Byte} {m : Memory} :
    Memory.wfFrom lo ((a, b) :: m) = true ↔
      lo ≤ a ∧ a < 4096 ∧ b ≠ Memory.initial a ∧ Memory.wfFrom (a + 1) m = true := by
  simp [Memory.wfFrom, Config.memSize, and_assoc]

theorem Memory.wfFrom_mono {lo lo' : Nat} {m : Memory} (h : Memory.wfFrom lo m = true) (hle : lo' ≤ lo) :
    Memory.wfFrom lo' m = true := by
  cases m with
  | nil => rfl
  | cons p m =>
    obtain ⟨a, b⟩ := p
    rw [Memory.wfFrom_cons] at *
    exact ⟨hle.trans h.1, h.2⟩

/-- Below the first listed address everything reads as at reset. -/
theorem Memory.read_of_lt {lo a : Nat} {m : Memory} (h : Memory.wfFrom lo m = true) (ha : a < lo) :
    m.read a = Memory.initial a := by
  induction m generalizing lo with
  | nil => rfl
  | cons p m ih =>
    obtain ⟨c, d⟩ := p
    rw [Memory.wfFrom_cons] at h
    rw [Memory.read, if_neg (by omega)]
    exact ih h.2.2.2 (by omega)

theorem Memory.wfFrom_write {lo a : Nat} {b : Byte} {m : Memory} (h : Memory.wfFrom lo m = true)
    (hlo : lo ≤ a) (ha : a < 4096) : Memory.wfFrom lo (m.write a b) = true := by
  induction m generalizing lo with
  | nil =>
    unfold Memory.write
    split <;> simp_all [Memory.wfFrom]
  | cons p m ih =>
    obtain ⟨c, d⟩ := p
    have hc := Memory.wfFrom_cons.mp h
    unfold Memory.write
    split_ifs with h1 h2 h2 h3
    · exact h
    · exact Memory.wfFrom_cons.mpr
        ⟨hlo, ha, h2, Memory.wfFrom_cons.mpr ⟨by omega, hc.2⟩⟩
    · exact Memory.wfFrom_mono hc.2.2.2 (by omega)
    · subst h2
      exact Memory.wfFrom_cons.mpr ⟨hlo, ha, h3, hc.2.2.2⟩
    · exact Memory.wfFrom_cons.mpr ⟨hc.1, hc.2.1, hc.2.2.1, ih hc.2.2.2 (by omega)⟩

/-- Storing a byte in range keeps the canonical form. -/
theorem Memory.wf_write {m : Memory} {a : Nat} (b : Byte) (h : m.wf = true) (ha : a < 4096) :
    (m.write a b).wf = true :=
  Memory.wfFrom_write h (Nat.zero_le a) ha

theorem Memory.read_write_of_ne {m : Memory} {a a' : Nat} (b : Byte) (hne : a' ≠ a) :
    (m.write a b).read a' = m.read a' := by
  induction m with
  | nil =>
    unfold Memory.write
    split <;> simp [Memory.read, hne]
  | cons p m ih =>
    obtain ⟨c, d⟩ := p
    unfold Memory.write
    split_ifs with h1 h2 h2 h3
    · rfl
    · simp [Memory.read, hne]
    · subst h2
      simp [Memory.read, hne]
    · subst h2
      simp [Memory.read, hne]
    · simp [Memory.read, ih]

theorem Memory.read_write_self_from {lo a : Nat} {b : Byte} {m : Memory} (h : Memory.wfFrom lo m = true) :
    (m.write a b).read a = b := by
  induction m generalizing lo with
  | nil =>
    unfold Memory.write
    split <;> simp_all [Memory.read]
  | cons p m ih =>
    obtain ⟨c, d⟩ := p
    have hc := Memory.wfFrom_cons.mp h
    unfold Memory.write
    split_ifs with h1 h2 h2 h3
    · rw [Memory.read, if_neg (by omega), Memory.read_of_lt hc.2.2.2 (by omega), h2]
    · simp [Memory.read]
    · rw [Memory.read_of_lt hc.2.2.2 (by omega), h3]
    · simp [Memory.read]
    · rw [Memory.read, if_neg h2]
      exact ih hc.2.2.2

/-- A read after a write to the same address gives the value written. -/
theorem Memory.read_write_self {m : Memory} {a : Nat} (b : Byte) (h : m.wf = true) :
    (m.write a b).read a = b :=
  Memory.read_write_self_from h

theorem Memory.wf_writeBytes {m : Memory} {a : Nat} {bs : List Byte} (h : m.wf = true)
    (ha : a + bs.length ≤ 4096) : (m.writeBytes a bs).wf = true := by
  induction bs generalizing m a with
  | nil => exact h
  | cons b bs ih =>
    simp only [List.length_cons] at ha
    exact ih (Memory.wf_write b h (by omega)) (by omega)

/-- Outside the bytes stored, every address reads as before. -/
theorem Memory.read_writeBytes_outside {m : Memory} {a a' : Nat} {bs : List Byte}
    (h : a' < a ∨ a + bs.length ≤ a') : (m.writeBytes a bs).read a' = m.read a' := by
  induction bs generalizing m a with
  | nil => rfl
  | cons b bs ih =>
    simp only [List.length_cons] at h
    rw [Memory.writeBytes, ih (by omega), Memory.read_write_of_ne b (by omega)]

/-- Each byte stored is read back at its own address. -/
theorem Memory.read_writeBytes_inside {m : Memory} {a k : Nat} {bs : List Byte} (hwf : m.wf = true)
    (ha : a + bs.length ≤ 4096) (hk : k < bs.length) : (m.writeBytes a bs).read (a + k) = bs[k] := by
  induction bs generalizing m a k with
  | nil => simp at hk
  | cons b bs ih =>
    simp only [List.length_cons] at ha hk
    rw [Memory.writeBytes]
    cases k with
    | zero =>
      rw [Memory.read_writeBytes_outside (by omega)]
      exact Memory.read_write_self b hwf
    | succ k =>
      rw [show a + (k + 1) = a + 1 + k by omega, ih (Memory.wf_write b hwf (by omega)) (by omega) (by omega)]
      rfl

@[simp] theorem Memory.length_readBytes (m : Memory) (a k : Nat) : (m.readBytes a k).length = k := by
  induction k generalizing a with
  | zero => rfl
  | succ k ih => simp [Memory.readBytes, ih]

theorem Memory.getElem_readBytes (m : Memory) (a n k : Nat) (h : k < (m.readBytes a n).length) :
    (m.readBytes a n)[k] = m.read (a + k) := by
  induction n generalizing a k with
  | zero => simp at h
  | succ n ih =>
    cases k with
    | zero => simp [Memory.readBytes]
    | succ k =>
      simp only [Memory.readBytes, List.getElem_cons_succ]
      rw [ih]
      congr 1
      omega

/-- The bounds check names no address exactly when every byte is in range. -/
theorem firstOutOfRange_eq_none {base count : Nat} :
    firstOutOfRange base count = none ↔ count = 0 ∨ base + count ≤ 4096 := by
  unfold firstOutOfRange
  split_ifs with h
  · simp; omega
  · simp; omega

/-- The address the bounds check names is the lowest one out of range. -/
theorem firstOutOfRange_eq_some {base count a : Nat} :
    firstOutOfRange base count = some a ↔ 0 < count ∧ 4096 < base + count ∧ a = max base 4096 := by
  unfold firstOutOfRange
  split_ifs with h
  · simp only [Option.some.injEq]; omega
  · simp only [false_iff]; omega

@[simp] theorem Memory.memRead_of_le {m : Memory} {a : Nat} (h : a ≤ 4095) : m.memRead a = .ok (m.read a) := by
  simp [Memory.memRead, Nat.not_lt.mpr h]

@[simp] theorem Memory.memRead_of_gt {m : Memory} {a : Nat} (h : 4095 < a) : m.memRead a = .error a := by
  simp [Memory.memRead, h]

/-- What `fetch` can do (R112). -/
theorem fetch_cases (s : State) :
    (s.pc.toNat ≤ 4094 ∧
      fetch s = .ok (wordOfBytes (s.mem.read s.pc.toNat) (s.mem.read (s.pc.toNat + 1)))) ∨
    (s.pc.toNat = 4095 ∧ fetch s = .error 4096) ∨
    (4096 ≤ s.pc.toNat ∧ fetch s = .error s.pc.toNat) := by
  by_cases h1 : s.pc.toNat ≤ 4094
  · left
    simp [fetch, h1, Nat.le_succ_of_le h1, show s.pc.toNat + 1 ≤ 4095 by omega]
  · by_cases h2 : s.pc.toNat = 4095
    · right; left
      simp [fetch, h2, Memory.memRead]
    · right; right
      simp [fetch, Memory.memRead, show 4095 < s.pc.toNat by omega]
      omega

end Sys2Proof.Machine
end

