-- ==== Sys2Proof/Laws/State.lean ====
section
/-! SUPPORT. One lemma per field per update of State, and the laws of the register, stack and display
accessors, so that no later proof unfolds an update. -/

namespace Sys2Proof.Machine

variable (s : State)

/-! ### `setV` -/

@[simp] theorem setV_i (x : Reg) (b : Byte) : (s.setV x b).i = s.i := rfl
@[simp] theorem setV_pc (x : Reg) (b : Byte) : (s.setV x b).pc = s.pc := rfl
@[simp] theorem setV_dt (x : Reg) (b : Byte) : (s.setV x b).dt = s.dt := rfl
@[simp] theorem setV_st (x : Reg) (b : Byte) : (s.setV x b).st = s.st := rfl
@[simp] theorem setV_stack (x : Reg) (b : Byte) : (s.setV x b).stack = s.stack := rfl
@[simp] theorem setV_sp (x : Reg) (b : Byte) : (s.setV x b).sp = s.sp := rfl
@[simp] theorem setV_mem (x : Reg) (b : Byte) : (s.setV x b).mem = s.mem := rfl
@[simp] theorem setV_key (x : Reg) (b : Byte) : (s.setV x b).key = s.key := rfl
@[simp] theorem setV_fb (x : Reg) (b : Byte) : (s.setV x b).fb = s.fb := rfl
@[simp] theorem setV_waiting (x : Reg) (b : Byte) : (s.setV x b).waiting = s.waiting := rfl
@[simp] theorem setV_waitX (x : Reg) (b : Byte) : (s.setV x b).waitX = s.waitX := rfl
@[simp] theorem setV_keyPrev (x : Reg) (b : Byte) : (s.setV x b).keyPrev = s.keyPrev := rfl
@[simp] theorem setV_fault (x : Reg) (b : Byte) : (s.setV x b).fault = s.fault := rfl
@[simp] theorem setV_result (x : Reg) (b : Byte) : (s.setV x b).result = s.result := rfl
@[simp] theorem setV_rnd (x : Reg) (b : Byte) : (s.setV x b).rnd = s.rnd := rfl
@[simp] theorem setV_rndCount (x : Reg) (b : Byte) : (s.setV x b).rndCount = s.rndCount := rfl
@[simp] theorem setV_pending (x : Reg) (b : Byte) : (s.setV x b).pending = s.pending := rfl

/-! ### `loadV` -/

@[simp] theorem loadV_i (x : Reg) (base : Nat) : (s.loadV x base).i = s.i := rfl
@[simp] theorem loadV_pc (x : Reg) (base : Nat) : (s.loadV x base).pc = s.pc := rfl
@[simp] theorem loadV_dt (x : Reg) (base : Nat) : (s.loadV x base).dt = s.dt := rfl
@[simp] theorem loadV_st (x : Reg) (base : Nat) : (s.loadV x base).st = s.st := rfl
@[simp] theorem loadV_stack (x : Reg) (base : Nat) : (s.loadV x base).stack = s.stack := rfl
@[simp] theorem loadV_sp (x : Reg) (base : Nat) : (s.loadV x base).sp = s.sp := rfl
@[simp] theorem loadV_mem (x : Reg) (base : Nat) : (s.loadV x base).mem = s.mem := rfl
@[simp] theorem loadV_key (x : Reg) (base : Nat) : (s.loadV x base).key = s.key := rfl
@[simp] theorem loadV_fb (x : Reg) (base : Nat) : (s.loadV x base).fb = s.fb := rfl
@[simp] theorem loadV_waiting (x : Reg) (base : Nat) : (s.loadV x base).waiting = s.waiting := rfl
@[simp] theorem loadV_waitX (x : Reg) (base : Nat) : (s.loadV x base).waitX = s.waitX := rfl
@[simp] theorem loadV_keyPrev (x : Reg) (base : Nat) : (s.loadV x base).keyPrev = s.keyPrev := rfl
@[simp] theorem loadV_fault (x : Reg) (base : Nat) : (s.loadV x base).fault = s.fault := rfl
@[simp] theorem loadV_result (x : Reg) (base : Nat) : (s.loadV x base).result = s.result := rfl
@[simp] theorem loadV_rnd (x : Reg) (base : Nat) : (s.loadV x base).rnd = s.rnd := rfl
@[simp] theorem loadV_rndCount (x : Reg) (base : Nat) : (s.loadV x base).rndCount = s.rndCount := rfl
@[simp] theorem loadV_pending (x : Reg) (base : Nat) : (s.loadV x base).pending = s.pending := rfl

/-! ### `setI` -/

@[simp] theorem setI_v (w : Word) : (s.setI w).v = s.v := rfl
@[simp] theorem setI_i (w : Word) : (s.setI w).i = w := rfl
@[simp] theorem setI_pc (w : Word) : (s.setI w).pc = s.pc := rfl
@[simp] theorem setI_dt (w : Word) : (s.setI w).dt = s.dt := rfl
@[simp] theorem setI_st (w : Word) : (s.setI w).st = s.st := rfl
@[simp] theorem setI_stack (w : Word) : (s.setI w).stack = s.stack := rfl
@[simp] theorem setI_sp (w : Word) : (s.setI w).sp = s.sp := rfl
@[simp] theorem setI_mem (w : Word) : (s.setI w).mem = s.mem := rfl
@[simp] theorem setI_key (w : Word) : (s.setI w).key = s.key := rfl
@[simp] theorem setI_fb (w : Word) : (s.setI w).fb = s.fb := rfl
@[simp] theorem setI_waiting (w : Word) : (s.setI w).waiting = s.waiting := rfl
@[simp] theorem setI_waitX (w : Word) : (s.setI w).waitX = s.waitX := rfl
@[simp] theorem setI_keyPrev (w : Word) : (s.setI w).keyPrev = s.keyPrev := rfl
@[simp] theorem setI_fault (w : Word) : (s.setI w).fault = s.fault := rfl
@[simp] theorem setI_result (w : Word) : (s.setI w).result = s.result := rfl
@[simp] theorem setI_rnd (w : Word) : (s.setI w).rnd = s.rnd := rfl
@[simp] theorem setI_rndCount (w : Word) : (s.setI w).rndCount = s.rndCount := rfl
@[simp] theorem setI_pending (w : Word) : (s.setI w).pending = s.pending := rfl
@[simp] theorem getV_setI (w : Word) (r : Reg) : (s.setI w).getV r = s.getV r := rfl

/-! ### `setPc` -/

@[simp] theorem setPc_v (w : Word) : (s.setPc w).v = s.v := rfl
@[simp] theorem setPc_i (w : Word) : (s.setPc w).i = s.i := rfl
@[simp] theorem setPc_pc (w : Word) : (s.setPc w).pc = w := rfl
@[simp] theorem setPc_dt (w : Word) : (s.setPc w).dt = s.dt := rfl
@[simp] theorem setPc_st (w : Word) : (s.setPc w).st = s.st := rfl
@[simp] theorem setPc_stack (w : Word) : (s.setPc w).stack = s.stack := rfl
@[simp] theorem setPc_sp (w : Word) : (s.setPc w).sp = s.sp := rfl
@[simp] theorem setPc_mem (w : Word) : (s.setPc w).mem = s.mem := rfl
@[simp] theorem setPc_key (w : Word) : (s.setPc w).key = s.key := rfl
@[simp] theorem setPc_fb (w : Word) : (s.setPc w).fb = s.fb := rfl
@[simp] theorem setPc_waiting (w : Word) : (s.setPc w).waiting = s.waiting := rfl
@[simp] theorem setPc_waitX (w : Word) : (s.setPc w).waitX = s.waitX := rfl
@[simp] theorem setPc_keyPrev (w : Word) : (s.setPc w).keyPrev = s.keyPrev := rfl
@[simp] theorem setPc_fault (w : Word) : (s.setPc w).fault = s.fault := rfl
@[simp] theorem setPc_result (w : Word) : (s.setPc w).result = s.result := rfl
@[simp] theorem setPc_rnd (w : Word) : (s.setPc w).rnd = s.rnd := rfl
@[simp] theorem setPc_rndCount (w : Word) : (s.setPc w).rndCount = s.rndCount := rfl
@[simp] theorem setPc_pending (w : Word) : (s.setPc w).pending = s.pending := rfl
@[simp] theorem getV_setPc (w : Word) (r : Reg) : (s.setPc w).getV r = s.getV r := rfl

/-! ### `setDt` -/

@[simp] theorem setDt_v (b : Byte) : (s.setDt b).v = s.v := rfl
@[simp] theorem setDt_i (b : Byte) : (s.setDt b).i = s.i := rfl
@[simp] theorem setDt_pc (b : Byte) : (s.setDt b).pc = s.pc := rfl
@[simp] theorem setDt_dt (b : Byte) : (s.setDt b).dt = b := rfl
@[simp] theorem setDt_st (b : Byte) : (s.setDt b).st = s.st := rfl
@[simp] theorem setDt_stack (b : Byte) : (s.setDt b).stack = s.stack := rfl
@[simp] theorem setDt_sp (b : Byte) : (s.setDt b).sp = s.sp := rfl
@[simp] theorem setDt_mem (b : Byte) : (s.setDt b).mem = s.mem := rfl
@[simp] theorem setDt_key (b : Byte) : (s.setDt b).key = s.key := rfl
@[simp] theorem setDt_fb (b : Byte) : (s.setDt b).fb = s.fb := rfl
@[simp] theorem setDt_waiting (b : Byte) : (s.setDt b).waiting = s.waiting := rfl
@[simp] theorem setDt_waitX (b : Byte) : (s.setDt b).waitX = s.waitX := rfl
@[simp] theorem setDt_keyPrev (b : Byte) : (s.setDt b).keyPrev = s.keyPrev := rfl
@[simp] theorem setDt_fault (b : Byte) : (s.setDt b).fault = s.fault := rfl
@[simp] theorem setDt_result (b : Byte) : (s.setDt b).result = s.result := rfl
@[simp] theorem setDt_rnd (b : Byte) : (s.setDt b).rnd = s.rnd := rfl
@[simp] theorem setDt_rndCount (b : Byte) : (s.setDt b).rndCount = s.rndCount := rfl
@[simp] theorem setDt_pending (b : Byte) : (s.setDt b).pending = s.pending := rfl
@[simp] theorem getV_setDt (b : Byte) (r : Reg) : (s.setDt b).getV r = s.getV r := rfl

/-! ### `setSt` -/

@[simp] theorem setSt_v (b : Byte) : (s.setSt b).v = s.v := rfl
@[simp] theorem setSt_i (b : Byte) : (s.setSt b).i = s.i := rfl
@[simp] theorem setSt_pc (b : Byte) : (s.setSt b).pc = s.pc := rfl
@[simp] theorem setSt_dt (b : Byte) : (s.setSt b).dt = s.dt := rfl
@[simp] theorem setSt_st (b : Byte) : (s.setSt b).st = b := rfl
@[simp] theorem setSt_stack (b : Byte) : (s.setSt b).stack = s.stack := rfl
@[simp] theorem setSt_sp (b : Byte) : (s.setSt b).sp = s.sp := rfl
@[simp] theorem setSt_mem (b : Byte) : (s.setSt b).mem = s.mem := rfl
@[simp] theorem setSt_key (b : Byte) : (s.setSt b).key = s.key := rfl
@[simp] theorem setSt_fb (b : Byte) : (s.setSt b).fb = s.fb := rfl
@[simp] theorem setSt_waiting (b : Byte) : (s.setSt b).waiting = s.waiting := rfl
@[simp] theorem setSt_waitX (b : Byte) : (s.setSt b).waitX = s.waitX := rfl
@[simp] theorem setSt_keyPrev (b : Byte) : (s.setSt b).keyPrev = s.keyPrev := rfl
@[simp] theorem setSt_fault (b : Byte) : (s.setSt b).fault = s.fault := rfl
@[simp] theorem setSt_result (b : Byte) : (s.setSt b).result = s.result := rfl
@[simp] theorem setSt_rnd (b : Byte) : (s.setSt b).rnd = s.rnd := rfl
@[simp] theorem setSt_rndCount (b : Byte) : (s.setSt b).rndCount = s.rndCount := rfl
@[simp] theorem setSt_pending (b : Byte) : (s.setSt b).pending = s.pending := rfl
@[simp] theorem getV_setSt (b : Byte) (r : Reg) : (s.setSt b).getV r = s.getV r := rfl

/-! ### `setMem` -/

@[simp] theorem setMem_v (m : Memory) : (s.setMem m).v = s.v := rfl
@[simp] theorem setMem_i (m : Memory) : (s.setMem m).i = s.i := rfl
@[simp] theorem setMem_pc (m : Memory) : (s.setMem m).pc = s.pc := rfl
@[simp] theorem setMem_dt (m : Memory) : (s.setMem m).dt = s.dt := rfl
@[simp] theorem setMem_st (m : Memory) : (s.setMem m).st = s.st := rfl
@[simp] theorem setMem_stack (m : Memory) : (s.setMem m).stack = s.stack := rfl
@[simp] theorem setMem_sp (m : Memory) : (s.setMem m).sp = s.sp := rfl
@[simp] theorem setMem_mem (m : Memory) : (s.setMem m).mem = m := rfl
@[simp] theorem setMem_key (m : Memory) : (s.setMem m).key = s.key := rfl
@[simp] theorem setMem_fb (m : Memory) : (s.setMem m).fb = s.fb := rfl
@[simp] theorem setMem_waiting (m : Memory) : (s.setMem m).waiting = s.waiting := rfl
@[simp] theorem setMem_waitX (m : Memory) : (s.setMem m).waitX = s.waitX := rfl
@[simp] theorem setMem_keyPrev (m : Memory) : (s.setMem m).keyPrev = s.keyPrev := rfl
@[simp] theorem setMem_fault (m : Memory) : (s.setMem m).fault = s.fault := rfl
@[simp] theorem setMem_result (m : Memory) : (s.setMem m).result = s.result := rfl
@[simp] theorem setMem_rnd (m : Memory) : (s.setMem m).rnd = s.rnd := rfl
@[simp] theorem setMem_rndCount (m : Memory) : (s.setMem m).rndCount = s.rndCount := rfl
@[simp] theorem setMem_pending (m : Memory) : (s.setMem m).pending = s.pending := rfl
@[simp] theorem getV_setMem (m : Memory) (r : Reg) : (s.setMem m).getV r = s.getV r := rfl

/-! ### `setFb` -/

@[simp] theorem setFb_v (d : Display) : (s.setFb d).v = s.v := rfl
@[simp] theorem setFb_i (d : Display) : (s.setFb d).i = s.i := rfl
@[simp] theorem setFb_pc (d : Display) : (s.setFb d).pc = s.pc := rfl
@[simp] theorem setFb_dt (d : Display) : (s.setFb d).dt = s.dt := rfl
@[simp] theorem setFb_st (d : Display) : (s.setFb d).st = s.st := rfl
@[simp] theorem setFb_stack (d : Display) : (s.setFb d).stack = s.stack := rfl
@[simp] theorem setFb_sp (d : Display) : (s.setFb d).sp = s.sp := rfl
@[simp] theorem setFb_mem (d : Display) : (s.setFb d).mem = s.mem := rfl
@[simp] theorem setFb_key (d : Display) : (s.setFb d).key = s.key := rfl
@[simp] theorem setFb_fb (d : Display) : (s.setFb d).fb = d := rfl
@[simp] theorem setFb_waiting (d : Display) : (s.setFb d).waiting = s.waiting := rfl
@[simp] theorem setFb_waitX (d : Display) : (s.setFb d).waitX = s.waitX := rfl
@[simp] theorem setFb_keyPrev (d : Display) : (s.setFb d).keyPrev = s.keyPrev := rfl
@[simp] theorem setFb_fault (d : Display) : (s.setFb d).fault = s.fault := rfl
@[simp] theorem setFb_result (d : Display) : (s.setFb d).result = s.result := rfl
@[simp] theorem setFb_rnd (d : Display) : (s.setFb d).rnd = s.rnd := rfl
@[simp] theorem setFb_rndCount (d : Display) : (s.setFb d).rndCount = s.rndCount := rfl
@[simp] theorem setFb_pending (d : Display) : (s.setFb d).pending = s.pending := rfl
@[simp] theorem getV_setFb (d : Display) (r : Reg) : (s.setFb d).getV r = s.getV r := rfl

/-! ### `advance` -/

@[simp] theorem advance_v : s.advance.v = s.v := rfl
@[simp] theorem advance_i : s.advance.i = s.i := rfl
@[simp] theorem advance_pc : s.advance.pc = s.pc + 2#16 := rfl
@[simp] theorem advance_dt : s.advance.dt = s.dt := rfl
@[simp] theorem advance_st : s.advance.st = s.st := rfl
@[simp] theorem advance_stack : s.advance.stack = s.stack := rfl
@[simp] theorem advance_sp : s.advance.sp = s.sp := rfl
@[simp] theorem advance_mem : s.advance.mem = s.mem := rfl
@[simp] theorem advance_key : s.advance.key = s.key := rfl
@[simp] theorem advance_fb : s.advance.fb = s.fb := rfl
@[simp] theorem advance_waiting : s.advance.waiting = s.waiting := rfl
@[simp] theorem advance_waitX : s.advance.waitX = s.waitX := rfl
@[simp] theorem advance_keyPrev : s.advance.keyPrev = s.keyPrev := rfl
@[simp] theorem advance_fault : s.advance.fault = s.fault := rfl
@[simp] theorem advance_result : s.advance.result = s.result := rfl
@[simp] theorem advance_rnd : s.advance.rnd = s.rnd := rfl
@[simp] theorem advance_rndCount : s.advance.rndCount = s.rndCount := rfl
@[simp] theorem advance_pending : s.advance.pending = s.pending := rfl
@[simp] theorem getV_advance (r : Reg) : s.advance.getV r = s.getV r := rfl

/-! ### `skipIf` -/

@[simp] theorem skipIf_v (c : Bool) : (s.skipIf c).v = s.v := rfl
@[simp] theorem skipIf_i (c : Bool) : (s.skipIf c).i = s.i := rfl
@[simp] theorem skipIf_pc (c : Bool) : (s.skipIf c).pc = if c then s.pc + 4#16 else s.pc + 2#16 := rfl
@[simp] theorem skipIf_dt (c : Bool) : (s.skipIf c).dt = s.dt := rfl
@[simp] theorem skipIf_st (c : Bool) : (s.skipIf c).st = s.st := rfl
@[simp] theorem skipIf_stack (c : Bool) : (s.skipIf c).stack = s.stack := rfl
@[simp] theorem skipIf_sp (c : Bool) : (s.skipIf c).sp = s.sp := rfl
@[simp] theorem skipIf_mem (c : Bool) : (s.skipIf c).mem = s.mem := rfl
@[simp] theorem skipIf_key (c : Bool) : (s.skipIf c).key = s.key := rfl
@[simp] theorem skipIf_fb (c : Bool) : (s.skipIf c).fb = s.fb := rfl
@[simp] theorem skipIf_waiting (c : Bool) : (s.skipIf c).waiting = s.waiting := rfl
@[simp] theorem skipIf_waitX (c : Bool) : (s.skipIf c).waitX = s.waitX := rfl
@[simp] theorem skipIf_keyPrev (c : Bool) : (s.skipIf c).keyPrev = s.keyPrev := rfl
@[simp] theorem skipIf_fault (c : Bool) : (s.skipIf c).fault = s.fault := rfl
@[simp] theorem skipIf_result (c : Bool) : (s.skipIf c).result = s.result := rfl
@[simp] theorem skipIf_rnd (c : Bool) : (s.skipIf c).rnd = s.rnd := rfl
@[simp] theorem skipIf_rndCount (c : Bool) : (s.skipIf c).rndCount = s.rndCount := rfl
@[simp] theorem skipIf_pending (c : Bool) : (s.skipIf c).pending = s.pending := rfl
@[simp] theorem getV_skipIf (c : Bool) (r : Reg) : (s.skipIf c).getV r = s.getV r := rfl

/-! ### `complete` -/

@[simp] theorem complete_v : s.complete.v = s.v := rfl
@[simp] theorem complete_i : s.complete.i = s.i := rfl
@[simp] theorem complete_pc : s.complete.pc = s.pc := rfl
@[simp] theorem complete_dt : s.complete.dt = s.dt := rfl
@[simp] theorem complete_st : s.complete.st = s.st := rfl
@[simp] theorem complete_stack : s.complete.stack = s.stack := rfl
@[simp] theorem complete_sp : s.complete.sp = s.sp := rfl
@[simp] theorem complete_mem : s.complete.mem = s.mem := rfl
@[simp] theorem complete_key : s.complete.key = s.key := rfl
@[simp] theorem complete_fb : s.complete.fb = s.fb := rfl
@[simp] theorem complete_waiting : s.complete.waiting = s.waiting := rfl
@[simp] theorem complete_waitX : s.complete.waitX = s.waitX := rfl
@[simp] theorem complete_keyPrev : s.complete.keyPrev = s.keyPrev := rfl
@[simp] theorem complete_fault : s.complete.fault = s.fault := rfl
@[simp] theorem complete_result : s.complete.result = .ok (quietSignal s.st) := rfl
@[simp] theorem complete_rnd : s.complete.rnd = s.rnd := rfl
@[simp] theorem complete_rndCount : s.complete.rndCount = s.rndCount := rfl
@[simp] theorem complete_pending : s.complete.pending = s.pending := rfl
@[simp] theorem getV_complete (r : Reg) : s.complete.getV r = s.getV r := rfl

/-! ### `completeDraw` -/

@[simp] theorem completeDraw_v : s.completeDraw.v = s.v := rfl
@[simp] theorem completeDraw_i : s.completeDraw.i = s.i := rfl
@[simp] theorem completeDraw_pc : s.completeDraw.pc = s.pc := rfl
@[simp] theorem completeDraw_dt : s.completeDraw.dt = s.dt := rfl
@[simp] theorem completeDraw_st : s.completeDraw.st = s.st := rfl
@[simp] theorem completeDraw_stack : s.completeDraw.stack = s.stack := rfl
@[simp] theorem completeDraw_sp : s.completeDraw.sp = s.sp := rfl
@[simp] theorem completeDraw_mem : s.completeDraw.mem = s.mem := rfl
@[simp] theorem completeDraw_key : s.completeDraw.key = s.key := rfl
@[simp] theorem completeDraw_fb : s.completeDraw.fb = s.fb := rfl
@[simp] theorem completeDraw_waiting : s.completeDraw.waiting = s.waiting := rfl
@[simp] theorem completeDraw_waitX : s.completeDraw.waitX = s.waitX := rfl
@[simp] theorem completeDraw_keyPrev : s.completeDraw.keyPrev = s.keyPrev := rfl
@[simp] theorem completeDraw_fault : s.completeDraw.fault = s.fault := rfl
@[simp] theorem completeDraw_result : s.completeDraw.result = .ok (.draw s.fb) := rfl
@[simp] theorem completeDraw_rnd : s.completeDraw.rnd = s.rnd := rfl
@[simp] theorem completeDraw_rndCount : s.completeDraw.rndCount = s.rndCount := rfl
@[simp] theorem completeDraw_pending : s.completeDraw.pending = s.pending := rfl
@[simp] theorem getV_completeDraw (r : Reg) : s.completeDraw.getV r = s.getV r := rfl

/-! ### `raise` -/

@[simp] theorem raise_v (r : FaultRecord) : (s.raise r).v = s.v := rfl
@[simp] theorem raise_i (r : FaultRecord) : (s.raise r).i = s.i := rfl
@[simp] theorem raise_pc (r : FaultRecord) : (s.raise r).pc = s.pc := rfl
@[simp] theorem raise_dt (r : FaultRecord) : (s.raise r).dt = s.dt := rfl
@[simp] theorem raise_st (r : FaultRecord) : (s.raise r).st = s.st := rfl
@[simp] theorem raise_stack (r : FaultRecord) : (s.raise r).stack = s.stack := rfl
@[simp] theorem raise_sp (r : FaultRecord) : (s.raise r).sp = s.sp := rfl
@[simp] theorem raise_mem (r : FaultRecord) : (s.raise r).mem = s.mem := rfl
@[simp] theorem raise_key (r : FaultRecord) : (s.raise r).key = s.key := rfl
@[simp] theorem raise_fb (r : FaultRecord) : (s.raise r).fb = s.fb := rfl
@[simp] theorem raise_waiting (r : FaultRecord) : (s.raise r).waiting = s.waiting := rfl
@[simp] theorem raise_waitX (r : FaultRecord) : (s.raise r).waitX = s.waitX := rfl
@[simp] theorem raise_keyPrev (r : FaultRecord) : (s.raise r).keyPrev = s.keyPrev := rfl
@[simp] theorem raise_fault (r : FaultRecord) : (s.raise r).fault = some r := rfl
@[simp] theorem raise_result (r : FaultRecord) : (s.raise r).result = .fault r := rfl
@[simp] theorem raise_rnd (r : FaultRecord) : (s.raise r).rnd = s.rnd := rfl
@[simp] theorem raise_rndCount (r : FaultRecord) : (s.raise r).rndCount = s.rndCount := rfl
@[simp] theorem raise_pending (r : FaultRecord) : (s.raise r).pending = s.pending := rfl
@[simp] theorem getV_raise (f : FaultRecord) (r : Reg) : (s.raise f).getV r = s.getV r := rfl

/-! ### `raiseIn` -/

@[simp] theorem raiseIn_v (k : FaultKind) (w : Word) (a : Option Nat) : (s.raiseIn k w a).v = s.v := rfl
@[simp] theorem raiseIn_i (k : FaultKind) (w : Word) (a : Option Nat) : (s.raiseIn k w a).i = s.i := rfl
@[simp] theorem raiseIn_pc (k : FaultKind) (w : Word) (a : Option Nat) : (s.raiseIn k w a).pc = s.pc := rfl
@[simp] theorem raiseIn_dt (k : FaultKind) (w : Word) (a : Option Nat) : (s.raiseIn k w a).dt = s.dt := rfl
@[simp] theorem raiseIn_st (k : FaultKind) (w : Word) (a : Option Nat) : (s.raiseIn k w a).st = s.st := rfl
@[simp] theorem raiseIn_stack (k : FaultKind) (w : Word) (a : Option Nat) : (s.raiseIn k w a).stack = s.stack := rfl
@[simp] theorem raiseIn_sp (k : FaultKind) (w : Word) (a : Option Nat) : (s.raiseIn k w a).sp = s.sp := rfl
@[simp] theorem raiseIn_mem (k : FaultKind) (w : Word) (a : Option Nat) : (s.raiseIn k w a).mem = s.mem := rfl
@[simp] theorem raiseIn_key (k : FaultKind) (w : Word) (a : Option Nat) : (s.raiseIn k w a).key = s.key := rfl
@[simp] theorem raiseIn_fb (k : FaultKind) (w : Word) (a : Option Nat) : (s.raiseIn k w a).fb = s.fb := rfl
@[simp] theorem raiseIn_waiting (k : FaultKind) (w : Word) (a : Option Nat) : (s.raiseIn k w a).waiting = s.waiting := rfl
@[simp] theorem raiseIn_waitX (k : FaultKind) (w : Word) (a : Option Nat) : (s.raiseIn k w a).waitX = s.waitX := rfl
@[simp] theorem raiseIn_keyPrev (k : FaultKind) (w : Word) (a : Option Nat) : (s.raiseIn k w a).keyPrev = s.keyPrev := rfl
@[simp] theorem raiseIn_fault (k : FaultKind) (w : Word) (a : Option Nat) : (s.raiseIn k w a).fault = some ⟨k, some s.pc, some w, a⟩ := rfl
@[simp] theorem raiseIn_result (k : FaultKind) (w : Word) (a : Option Nat) : (s.raiseIn k w a).result = .fault ⟨k, some s.pc, some w, a⟩ := rfl
@[simp] theorem raiseIn_rnd (k : FaultKind) (w : Word) (a : Option Nat) : (s.raiseIn k w a).rnd = s.rnd := rfl
@[simp] theorem raiseIn_rndCount (k : FaultKind) (w : Word) (a : Option Nat) : (s.raiseIn k w a).rndCount = s.rndCount := rfl
@[simp] theorem raiseIn_pending (k : FaultKind) (w : Word) (a : Option Nat) : (s.raiseIn k w a).pending = s.pending := rfl
@[simp] theorem getV_raiseIn (k : FaultKind) (w : Word) (a : Option Nat) (r : Reg) : (s.raiseIn k w a).getV r = s.getV r := rfl

/-! ### `beginWait` -/

@[simp] theorem beginWait_v (x : Reg) : (s.beginWait x).v = s.v := rfl
@[simp] theorem beginWait_i (x : Reg) : (s.beginWait x).i = s.i := rfl
@[simp] theorem beginWait_pc (x : Reg) : (s.beginWait x).pc = s.pc := rfl
@[simp] theorem beginWait_dt (x : Reg) : (s.beginWait x).dt = s.dt := rfl
@[simp] theorem beginWait_st (x : Reg) : (s.beginWait x).st = s.st := rfl
@[simp] theorem beginWait_stack (x : Reg) : (s.beginWait x).stack = s.stack := rfl
@[simp] theorem beginWait_sp (x : Reg) : (s.beginWait x).sp = s.sp := rfl
@[simp] theorem beginWait_mem (x : Reg) : (s.beginWait x).mem = s.mem := rfl
@[simp] theorem beginWait_key (x : Reg) : (s.beginWait x).key = s.key := rfl
@[simp] theorem beginWait_fb (x : Reg) : (s.beginWait x).fb = s.fb := rfl
@[simp] theorem beginWait_waiting (x : Reg) : (s.beginWait x).waiting = true := rfl
@[simp] theorem beginWait_waitX (x : Reg) : (s.beginWait x).waitX = x := rfl
@[simp] theorem beginWait_keyPrev (x : Reg) : (s.beginWait x).keyPrev = s.key := rfl
@[simp] theorem beginWait_fault (x : Reg) : (s.beginWait x).fault = s.fault := rfl
@[simp] theorem beginWait_result (x : Reg) : (s.beginWait x).result = s.result := rfl
@[simp] theorem beginWait_rnd (x : Reg) : (s.beginWait x).rnd = s.rnd := rfl
@[simp] theorem beginWait_rndCount (x : Reg) : (s.beginWait x).rndCount = s.rndCount := rfl
@[simp] theorem beginWait_pending (x : Reg) : (s.beginWait x).pending = s.pending := rfl
@[simp] theorem getV_beginWait (x : Reg) (r : Reg) : (s.beginWait x).getV r = s.getV r := rfl

/-! ### `endWait` -/

@[simp] theorem endWait_v : s.endWait.v = s.v := rfl
@[simp] theorem endWait_i : s.endWait.i = s.i := rfl
@[simp] theorem endWait_pc : s.endWait.pc = s.pc := rfl
@[simp] theorem endWait_dt : s.endWait.dt = s.dt := rfl
@[simp] theorem endWait_st : s.endWait.st = s.st := rfl
@[simp] theorem endWait_stack : s.endWait.stack = s.stack := rfl
@[simp] theorem endWait_sp : s.endWait.sp = s.sp := rfl
@[simp] theorem endWait_mem : s.endWait.mem = s.mem := rfl
@[simp] theorem endWait_key : s.endWait.key = s.key := rfl
@[simp] theorem endWait_fb : s.endWait.fb = s.fb := rfl
@[simp] theorem endWait_waiting : s.endWait.waiting = false := rfl
@[simp] theorem endWait_waitX : s.endWait.waitX = s.waitX := rfl
@[simp] theorem endWait_keyPrev : s.endWait.keyPrev = s.keyPrev := rfl
@[simp] theorem endWait_fault : s.endWait.fault = s.fault := rfl
@[simp] theorem endWait_result : s.endWait.result = s.result := rfl
@[simp] theorem endWait_rnd : s.endWait.rnd = s.rnd := rfl
@[simp] theorem endWait_rndCount : s.endWait.rndCount = s.rndCount := rfl
@[simp] theorem endWait_pending : s.endWait.pending = s.pending := rfl
@[simp] theorem getV_endWait (r : Reg) : s.endWait.getV r = s.getV r := rfl

/-! ### `sampleKeys` -/

@[simp] theorem sampleKeys_v : s.sampleKeys.v = s.v := rfl
@[simp] theorem sampleKeys_i : s.sampleKeys.i = s.i := rfl
@[simp] theorem sampleKeys_pc : s.sampleKeys.pc = s.pc := rfl
@[simp] theorem sampleKeys_dt : s.sampleKeys.dt = s.dt := rfl
@[simp] theorem sampleKeys_st : s.sampleKeys.st = s.st := rfl
@[simp] theorem sampleKeys_stack : s.sampleKeys.stack = s.stack := rfl
@[simp] theorem sampleKeys_sp : s.sampleKeys.sp = s.sp := rfl
@[simp] theorem sampleKeys_mem : s.sampleKeys.mem = s.mem := rfl
@[simp] theorem sampleKeys_key : s.sampleKeys.key = s.key := rfl
@[simp] theorem sampleKeys_fb : s.sampleKeys.fb = s.fb := rfl
@[simp] theorem sampleKeys_waiting : s.sampleKeys.waiting = s.waiting := rfl
@[simp] theorem sampleKeys_waitX : s.sampleKeys.waitX = s.waitX := rfl
@[simp] theorem sampleKeys_keyPrev : s.sampleKeys.keyPrev = s.key := rfl
@[simp] theorem sampleKeys_fault : s.sampleKeys.fault = s.fault := rfl
@[simp] theorem sampleKeys_result : s.sampleKeys.result = s.result := rfl
@[simp] theorem sampleKeys_rnd : s.sampleKeys.rnd = s.rnd := rfl
@[simp] theorem sampleKeys_rndCount : s.sampleKeys.rndCount = s.rndCount := rfl
@[simp] theorem sampleKeys_pending : s.sampleKeys.pending = s.pending := rfl
@[simp] theorem getV_sampleKeys (r : Reg) : s.sampleKeys.getV r = s.getV r := rfl

/-! ### `drawRnd` -/

@[simp] theorem drawRnd_v : s.drawRnd.v = s.v := rfl
@[simp] theorem drawRnd_i : s.drawRnd.i = s.i := rfl
@[simp] theorem drawRnd_pc : s.drawRnd.pc = s.pc := rfl
@[simp] theorem drawRnd_dt : s.drawRnd.dt = s.dt := rfl
@[simp] theorem drawRnd_st : s.drawRnd.st = s.st := rfl
@[simp] theorem drawRnd_stack : s.drawRnd.stack = s.stack := rfl
@[simp] theorem drawRnd_sp : s.drawRnd.sp = s.sp := rfl
@[simp] theorem drawRnd_mem : s.drawRnd.mem = s.mem := rfl
@[simp] theorem drawRnd_key : s.drawRnd.key = s.key := rfl
@[simp] theorem drawRnd_fb : s.drawRnd.fb = s.fb := rfl
@[simp] theorem drawRnd_waiting : s.drawRnd.waiting = s.waiting := rfl
@[simp] theorem drawRnd_waitX : s.drawRnd.waitX = s.waitX := rfl
@[simp] theorem drawRnd_keyPrev : s.drawRnd.keyPrev = s.keyPrev := rfl
@[simp] theorem drawRnd_fault : s.drawRnd.fault = s.fault := rfl
@[simp] theorem drawRnd_result : s.drawRnd.result = s.result := rfl
@[simp] theorem drawRnd_rnd : s.drawRnd.rnd = Config.freeRnd s.rndCount := rfl
@[simp] theorem drawRnd_rndCount : s.drawRnd.rndCount = s.rndCount + 1 := rfl
@[simp] theorem drawRnd_pending : s.drawRnd.pending = s.pending := rfl
@[simp] theorem getV_drawRnd (r : Reg) : s.drawRnd.getV r = s.getV r := rfl

/-! ### `setResultAndFlag` -/

@[simp] theorem setResultAndFlag_i (last : Bool) (x : Reg) (res : Byte) (flag : Bool) :
    (s.setResultAndFlag last x res flag).i = s.i := by cases last <;> rfl
@[simp] theorem setResultAndFlag_pc (last : Bool) (x : Reg) (res : Byte) (flag : Bool) :
    (s.setResultAndFlag last x res flag).pc = s.pc := by cases last <;> rfl
@[simp] theorem setResultAndFlag_dt (last : Bool) (x : Reg) (res : Byte) (flag : Bool) :
    (s.setResultAndFlag last x res flag).dt = s.dt := by cases last <;> rfl
@[simp] theorem setResultAndFlag_st (last : Bool) (x : Reg) (res : Byte) (flag : Bool) :
    (s.setResultAndFlag last x res flag).st = s.st := by cases last <;> rfl
@[simp] theorem setResultAndFlag_stack (last : Bool) (x : Reg) (res : Byte) (flag : Bool) :
    (s.setResultAndFlag last x res flag).stack = s.stack := by cases last <;> rfl
@[simp] theorem setResultAndFlag_sp (last : Bool) (x : Reg) (res : Byte) (flag : Bool) :
    (s.setResultAndFlag last x res flag).sp = s.sp := by cases last <;> rfl
@[simp] theorem setResultAndFlag_mem (last : Bool) (x : Reg) (res : Byte) (flag : Bool) :
    (s.setResultAndFlag last x res flag).mem = s.mem := by cases last <;> rfl
@[simp] theorem setResultAndFlag_key (last : Bool) (x : Reg) (res : Byte) (flag : Bool) :
    (s.setResultAndFlag last x res flag).key = s.key := by cases last <;> rfl
@[simp] theorem setResultAndFlag_fb (last : Bool) (x : Reg) (res : Byte) (flag : Bool) :
    (s.setResultAndFlag last x res flag).fb = s.fb := by cases last <;> rfl
@[simp] theorem setResultAndFlag_waiting (last : Bool) (x : Reg) (res : Byte) (flag : Bool) :
    (s.setResultAndFlag last x res flag).waiting = s.waiting := by cases last <;> rfl
@[simp] theorem setResultAndFlag_waitX (last : Bool) (x : Reg) (res : Byte) (flag : Bool) :
    (s.setResultAndFlag last x res flag).waitX = s.waitX := by cases last <;> rfl
@[simp] theorem setResultAndFlag_keyPrev (last : Bool) (x : Reg) (res : Byte) (flag : Bool) :
    (s.setResultAndFlag last x res flag).keyPrev = s.keyPrev := by cases last <;> rfl
@[simp] theorem setResultAndFlag_fault (last : Bool) (x : Reg) (res : Byte) (flag : Bool) :
    (s.setResultAndFlag last x res flag).fault = s.fault := by cases last <;> rfl
@[simp] theorem setResultAndFlag_result (last : Bool) (x : Reg) (res : Byte) (flag : Bool) :
    (s.setResultAndFlag last x res flag).result = s.result := by cases last <;> rfl
@[simp] theorem setResultAndFlag_rnd (last : Bool) (x : Reg) (res : Byte) (flag : Bool) :
    (s.setResultAndFlag last x res flag).rnd = s.rnd := by cases last <;> rfl
@[simp] theorem setResultAndFlag_rndCount (last : Bool) (x : Reg) (res : Byte) (flag : Bool) :
    (s.setResultAndFlag last x res flag).rndCount = s.rndCount := by cases last <;> rfl
@[simp] theorem setResultAndFlag_pending (last : Bool) (x : Reg) (res : Byte) (flag : Bool) :
    (s.setResultAndFlag last x res flag).pending = s.pending := by cases last <;> rfl

/-! ### General registers -/

theorem getV_setV (x r : Reg) (b : Byte) : (s.setV x b).getV r = if r = x then b else s.getV r := by
  simp only [State.getV, State.setV, Vector.getElem_set]
  congr 1
  simp [BitVec.toNat_inj, eq_comm]

@[simp] theorem getV_setV_self (x : Reg) (b : Byte) : (s.setV x b).getV x = b := by
  rw [getV_setV, if_pos rfl]

@[simp] theorem getV_setV_of_ne {x r : Reg} (b : Byte) (h : r ≠ x) : (s.setV x b).getV r = s.getV r := by
  rw [getV_setV, if_neg h]

/-- Two states with the same general registers, read one by one, have the same register file. -/
theorem v_ext {s t : State} (h : ∀ r, t.getV r = s.getV r) : t.v = s.v := by
  ext k hk
  have hr := h (BitVec.ofNat 4 k)
  simp only [State.getV, BitVec.toNat_ofNat, Nat.mod_eq_of_lt (show k < 2 ^ 4 from hk)] at hr
  rw [hr]

theorem getV_loadV (x r : Reg) (base : Nat) :
    (s.loadV x base).getV r = if r ≤ x then s.mem.read (base + r.toNat) else s.getV r := by
  simp [State.getV, State.loadV, BitVec.le_def]

@[simp] theorem length_vUpTo (x : Reg) : (s.vUpTo x).length = x.toNat + 1 := by
  have := x.isLt
  simp [State.vUpTo]
  omega

theorem getElem_vUpTo (x : Reg) (k : Nat) (h : k < (s.vUpTo x).length) :
    (s.vUpTo x)[k] = s.getV (BitVec.ofNat 4 k) := by
  rw [length_vUpTo] at h
  have := x.isLt
  simp [State.vUpTo, State.getV, Nat.mod_eq_of_lt (show k < 16 by omega)]

/-- What the two writes of a flagged instruction leave when the destination is not `VF`. -/
theorem getV_setResultAndFlag_of_ne (last : Bool) {x : Reg} (res : Byte) (flag : Bool) (hx : x ≠ regF) (r : Reg) :
    (s.setResultAndFlag last x res flag).getV r =
      if r = x then res else if r = regF then flagByte flag else s.getV r := by
  cases last <;> simp only [State.setResultAndFlag, getV_setV, Bool.false_eq_true, if_true, if_false]
  split_ifs <;> simp_all

/-- The order of the two writes on this hardware: the flag first (D20). A proof rewrites with this and leaves
`params` folded, so that the stack's capacity stays a name. -/
theorem params_vfWriteLast : params.vfWriteLast = false := rfl

/-- When the destination is `VF` the last of the two writes stays (R170). -/
theorem getV_setResultAndFlag_regF (last : Bool) (res : Byte) (flag : Bool) (r : Reg) :
    (s.setResultAndFlag last regF res flag).getV r =
      if r = regF then (if last then flagByte flag else res) else s.getV r := by
  cases last <;> simp only [State.setResultAndFlag, getV_setV, Bool.false_eq_true, if_true, if_false] <;>
    split_ifs <;> rfl

/-! ### The stack -/

/-- What `push` can do (R6): with a full stack nothing, else one slot and the depth change. -/
theorem push_cases (ret : Word) :
    (s.sp.val = params.stackCapacity ∧ s.push ret = none) ∨
    (∃ (h : s.sp.val < params.stackCapacity) (d : Fin (params.stackCapacity + 1)), d.val = s.sp.val + 1 ∧
      s.push ret = some { s with stack := s.stack.set s.sp.val ret h, sp := d }) := by
  have := s.sp.isLt
  by_cases h : s.sp.val < params.stackCapacity
  · exact .inr ⟨h, ⟨s.sp.val + 1, by omega⟩, rfl, by simp only [State.push]; rw [dif_pos h]⟩
  · exact .inl ⟨by omega, by simp only [State.push]; rw [dif_neg h]⟩

/-- What `pop` can do (R6): with an empty stack nothing, else the top slot is read and the depth changes. -/
theorem pop_cases :
    (s.sp.val = 0 ∧ s.pop = none) ∨
    (∃ (k : Nat) (hk : k < params.stackCapacity) (d : Fin (params.stackCapacity + 1)), s.sp.val = k + 1 ∧ d.val = k ∧
      s.pop = some (s.stack[k], { s with sp := d })) := by
  have := s.sp.isLt
  by_cases h : 0 < s.sp.val
  · exact .inr ⟨s.sp.val - 1, by omega, ⟨s.sp.val - 1, by omega⟩, by omega, rfl,
      by simp only [State.pop]; rw [dif_pos h]⟩
  · exact .inl ⟨by omega, by simp only [State.pop]; rw [dif_neg h]⟩

/-! ### The display -/

theorem cell_setCell (d : Display) (r r' : Fin 32) (c c' : Fin 64) (b : Bool) :
    (d.setCell r c b).cell r' c' = if r' = r ∧ c' = c then b else d.cell r' c' := by
  simp only [Display.cell, Display.setCell, Vector.getElem_set]
  by_cases hr : r = r'
  · subst hr
    by_cases hc : c = c'
    · subst hc; simp
    · simp [Fin.val_inj, hc, Ne.symm hc]
  · simp [Fin.val_inj, hr, Ne.symm hr]

@[simp] theorem cell_blank (r : Fin 32) (c : Fin 64) : Display.blank.cell r c = false := by
  simp [Display.cell, Display.blank]

/-- Two displays with the same cells are the same display. -/
theorem display_ext {d e : Display} (h : ∀ r c, d.cell r c = e.cell r c) : d = e := by
  ext r hr c hc
  exact h ⟨r, hr⟩ ⟨c, hc⟩

end Sys2Proof.Machine
end

