-- ==== Sys2Proof/Laws/Ops.lean ====
section
/-! SUPPORT. For each shared operation, one lemma that says everything it can do, so that later proofs cite
it and do not unfold the operation. -/

namespace Sys2Proof.Machine

/-- `fetch` reads PC and memory only. -/
theorem fetch_congr {s t : State} (hpc : t.pc = s.pc) (hmem : t.mem = s.mem) : fetch t = fetch s := by
  simp only [fetch, hpc, hmem]

/-- What the bounds check answers. -/
theorem firstOutOfRange_cases (base count : Nat) :
    (firstOutOfRange base count = none ∧ (count = 0 ∨ base + count ≤ 4096)) ∨
    (firstOutOfRange base count = some (max base 4096) ∧ 0 < count ∧ 4096 < base + count) := by
  by_cases h : count = 0 ∨ base + count ≤ 4096
  · exact .inl ⟨firstOutOfRange_eq_none.mpr h, h⟩
  · exact .inr ⟨firstOutOfRange_eq_some.mpr ⟨by omega, by omega, rfl⟩, by omega, by omega⟩

/-- Which key an Ex9E or ExA1 names on this hardware. -/
theorem keyIndex_cases (k : Byte) :
    (∃ h : k.toNat < 16, keyIndex params.keyIndexPolicy k = some ⟨k.toNat, h⟩) ∨
    (15 < k.toNat ∧ keyIndex params.keyIndexPolicy k = none) := by
  have e : params.keyIndexPolicy = .fault := rfl
  by_cases h : k.toNat < 16
  · exact .inl ⟨h, by simp [e, keyIndex, h]⟩
  · exact .inr ⟨by omega, by simp [e, keyIndex, h]⟩

@[simp] theorem length_bcdDigits (a : Byte) : (bcdDigits a).length = 3 := rfl

/-- Raising a fault writes the latch and the result, and nothing else. -/
theorem faultsWith_raise (s : State) (r : FaultRecord) : FaultsWith r s (s.raise r) := by
  refine ⟨rfl, rfl, fun p hp => ?_⟩
  cases p <;> simp_all [Part.same]

/-- What a store at the index register does: it raises before any write, or stores and completes. -/
theorem storeAtIndex_cases (i : Instr) (bytes : List Byte) (s : State) :
    (4096 < s.i.toNat + bytes.length ∧ storeAtIndex i bytes s =
      .next (s.raiseIn .memoryOutOfBounds (encode i) (some (max s.i.toNat 4096)))) ∨
    ((bytes = [] ∨ s.i.toNat + bytes.length ≤ 4096) ∧ storeAtIndex i bytes s =
      .next (s.setMem (s.mem.writeBytes s.i.toNat bytes)).advance.complete) := by
  rcases firstOutOfRange_cases s.i.toNat bytes.length with ⟨e, h⟩ | ⟨e, _, h⟩
  · exact .inr ⟨by simpa using h, by simp only [storeAtIndex, indexBase, e]⟩
  · exact .inl ⟨h, by simp only [storeAtIndex, indexBase, e]⟩

/-- What a load at the index register does. -/
theorem execLdVxMem_cases (x : Reg) (s : State) :
    (4095 < s.i.toNat + x.toNat ∧ execLdVxMem x s =
      .next (s.raiseIn .memoryOutOfBounds (encode (.ldVxMem x)) (some (max s.i.toNat 4096)))) ∨
    (s.i.toNat + x.toNat ≤ 4095 ∧ execLdVxMem x s = .next (s.loadV x s.i.toNat).advance.complete) := by
  rcases firstOutOfRange_cases s.i.toNat (x.toNat + 1) with ⟨e, h⟩ | ⟨e, _, h⟩
  · exact .inr ⟨by omega, by simp only [execLdVxMem, indexBase, e]⟩
  · exact .inl ⟨by omega, by simp only [execLdVxMem, indexBase, e]⟩

/-- What a draw does. -/
theorem execDrw_cases (x y : Reg) (n : Nibble) (s : State) :
    (0 < n.toNat ∧ 4096 < s.i.toNat + n.toNat ∧ execDrw x y n s =
      .next (s.raiseIn .memoryOutOfBounds (encode (.drw x y n)) (some (max s.i.toNat 4096)))) ∨
    ((n.toNat = 0 ∨ s.i.toNat + n.toNat ≤ 4096) ∧ execDrw x y n s =
      .next (((s.setFb
        (blit (s.getV x) (s.getV y) (s.mem.readBytes s.i.toNat n.toNat) s.fb).1).setV regF
        (flagByte (blit (s.getV x) (s.getV y) (s.mem.readBytes s.i.toNat n.toNat) s.fb).2)).advance.completeDraw)) := by
  rcases firstOutOfRange_cases s.i.toNat n.toNat with ⟨e, h⟩ | ⟨e, h0, h⟩
  · exact .inr ⟨h, by simp only [execDrw, indexBase, e]⟩
  · exact .inl ⟨h0, h, by simp only [execDrw, indexBase, e]⟩

/-! ## The wait state -/

theorem mem_newKeys (s : State) (k : Fin 16) :
    k ∈ s.newKeys ↔ s.key[k.val] = true ∧ s.keyPrev[k.val] = false := by
  simp [State.newKeys]

theorem hasNewKey_iff (s : State) : s.hasNewKey ↔ s.newKeys ≠ [] := by
  simp only [State.hasNewKey, ← mem_newKeys]
  constructor
  · rintro ⟨k, h⟩ e
    rw [e] at h
    cases h
  · exact List.exists_mem_of_ne_nil _

/-- What a tick in the wait state does: it completes on the lowest new key, or samples the keypad. -/
theorem waitTick_cases (s : State) :
    (∃ k : Fin 16, k ∈ s.newKeys ∧ (∀ j ∈ s.newKeys, k ≤ j) ∧
      waitTick s = (s.setV s.waitX (BitVec.ofNat 8 k.val)).advance.endWait.complete) ∨
    (s.newKeys = [] ∧ waitTick s = s.sampleKeys.complete) := by
  have hs : s.newKeys.Pairwise (· < ·) := (List.pairwise_lt_finRange 16).filter _
  have e : pickKey params.keyPick s.newKeys = s.newKeys.head? := rfl
  cases hn : s.newKeys with
  | nil => exact .inr ⟨rfl, by rw [waitTick, e, hn]; rfl⟩
  | cons k ks =>
    rw [hn] at hs
    refine .inl ⟨k, List.mem_cons_self .., fun j hj => ?_, by rw [waitTick, e, hn]; rfl⟩
    rcases List.mem_cons.mp hj with h | h
    · exact h.ge
    · exact (List.rel_of_pairwise_cons hs h).le

@[simp] theorem waitTick_fault (s : State) : (waitTick s).fault = s.fault := by
  rcases waitTick_cases s with ⟨k, -, -, e⟩ | ⟨-, e⟩ <;> simp [e]

@[simp] theorem waitTick_mem (s : State) : (waitTick s).mem = s.mem := by
  rcases waitTick_cases s with ⟨k, -, -, e⟩ | ⟨-, e⟩ <;> simp [e]

/-! ## The host's events -/

theorem toNat_countDown (t : Byte) : (countDown t).toNat = t.toNat - 1 := by
  have := t.isLt
  unfold countDown
  split_ifs with h
  · rw [BitVec.toNat_sub]; simp; omega
  · omega

/-- The byte of a loaded program, and what is outside it reads as at reset. -/
theorem read_programCells (a : Nat) (program : List Byte) (k : Nat) :
    (programCells a program).read k =
      if h : a ≤ k ∧ k - a < program.length then program[k - a] else Memory.initial k := by
  induction program generalizing a with
  | nil => simp [programCells, Memory.read]
  | cons b bs ih =>
    unfold programCells
    split_ifs with h1 h2 h3
    · rw [ih]
      by_cases hk : k = a
      · subst hk; simp [h1]
      · rw [dif_pos (by simp at h2; omega)]
        simp [show k - a = (k - (a + 1)) + 1 by omega]
    · rw [ih, dif_neg (by simp at h2; omega)]
    · by_cases hk : k = a
      · subst hk; simp [Memory.read]
      · rw [Memory.read, if_neg hk, ih, dif_pos (by simp at h3; omega)]
        simp [show k - a = (k - (a + 1)) + 1 by omega]
    · rw [Memory.read, if_neg (by simp at h3; omega), ih, dif_neg (by simp at h3; omega)]

theorem wfFrom_programCells (a : Nat) (program : List Byte) (h : a + program.length ≤ 4096) :
    Memory.wfFrom a (programCells a program) = true := by
  induction program generalizing a with
  | nil => rfl
  | cons b bs ih =>
    simp only [List.length_cons] at h
    unfold programCells
    split_ifs with h1
    · exact Memory.wfFrom_mono (ih _ (by omega)) (by omega)
    · exact Memory.wfFrom_cons.mpr ⟨le_refl _, by omega, h1, ih _ (by omega)⟩

/-- A loaded program leaves memory in its canonical form. -/
theorem wf_programCells {program : List Byte} (h : program.length ≤ Config.programMax) :
    (programCells Config.programBase program).wf = true :=
  Memory.wfFrom_mono (wfFrom_programCells _ _ (by simp only [Config.programMax, Config.programBase] at *; omega))
    (Nat.zero_le _)

/-- Memory right after reset is in its canonical form. -/
theorem wf_reset : State.reset.mem.wf = true := rfl

/-- What `reset_load` leaves: the reset state with the program, or with the fault of a program too large. -/
theorem resetLoad_cases (program : List Byte) (s : State) :
    (program.length ≤ 3584 ∧ resetLoad program s =
      { State.reset with
        rndCount := s.rndCount, pending := s.pending, mem := programCells Config.programBase program }) ∨
    (3584 < program.length ∧ resetLoad program s =
      State.raise { State.reset with rndCount := s.rndCount, pending := s.pending }
        ⟨.programTooLarge, none, none, some program.length⟩) := by
  by_cases h : program.length ≤ 3584
  · exact .inl ⟨h, by simp [resetLoad, Config.programMax, h]⟩
  · exact .inr ⟨by omega, by simp [resetLoad, Config.programMax, h]⟩

/-! ## The tick -/

/-- What a tick can do (R111): return the latched fault, look at the keypad, raise a fault of the fetch or
the decode, or execute one instruction. -/
theorem tick_cases {s t : State} (h : tick s = .next t) :
    (∃ r, s.fault = some r ∧ t = { s with result := .fault r }) ∨
    (s.fault = none ∧ s.waiting = true ∧ t = waitTick s) ∨
    (s.fault = none ∧ s.waiting = false ∧ tickInstr s = none ∧ ∃ r, r.pc = some s.pc ∧ t = s.raise r) ∨
    (s.fault = none ∧ s.waiting = false ∧ ∃ i w, tickInstr s = some i ∧ fetch s = .ok w ∧
      decodeWord w = .ok i ∧ exec i s = .next t) := by
  unfold tick at h
  split at h
  · rename_i r hr
    cases h
    exact .inl ⟨r, hr, rfl⟩
  · rename_i hf
    split at h
    · rename_i hw
      cases h
      exact .inr (.inl ⟨hf, hw, rfl⟩)
    · rename_i hw
      have hw : s.waiting = false := by simpa using hw
      unfold fetchAndExecute at h
      split at h
      · rename_i a ha
        cases h
        exact .inr (.inr (.inl ⟨hf, hw, by simp [tickInstr, hf, hw, ha], _, rfl, rfl⟩))
      · rename_i w hfe
        unfold decodeAndExecute at h
        split at h
        · rename_i a ha
          cases h
          exact .inr (.inr (.inl ⟨hf, hw, by simp [tickInstr, hf, hw, hfe, ha], _, rfl, rfl⟩))
        · rename_i i hi
          exact .inr (.inr (.inr ⟨hf, hw, i, w, by simp [tickInstr, hf, hw, hfe, hi], hfe, hi, h⟩))

/-- A tick that executes the instruction `i` is `exec i`. -/
theorem tick_of_decode {s : State} {w : Word} {i : Instr} (hf : s.fault = none) (hw : s.waiting = false)
    (hfe : fetch s = .ok w) (hd : decodeWord w = .ok i) : tick s = exec i s := by
  simp [tick, hf, hw, fetchAndExecute, hfe, decodeAndExecute, hd]

/-! ## The blit -/

/-- One pixel: the cell it names is XORed with the pixel, every other cell stays, and the collision flag
records a pixel 1 on a cell that was true. -/
theorem cell_blitPixel (startX startY row : Byte) (r c : Nat) (acc : Display × Bool) (cy : Fin 32) (cx : Fin 64) :
    (blitPixel startX startY row r c acc).1.cell cy cx =
      if cy = pixelRow startY r ∧ cx = pixelColumn startX c then
        (acc.1.cell cy cx ^^ spritePixel row c) else acc.1.cell cy cx := by
  simp only [blitPixel, cell_setCell]
  split_ifs <;> simp_all

end Sys2Proof.Machine
end

