-- ==== Sys2Proof/Laws/Blit.lean ====
section
/-! SUPPORT. The blit as one fold over the pixels of the sprite, and what that fold does to the grid and to
the collision flag when the pixels land on different cells. -/

namespace Sys2Proof.Machine

/-- The pixels of a sprite in the order they are drawn: row offset, column offset, and the row's byte. -/
def spritePixels (r : Nat) (rows : List Byte) : List (Nat × Nat × Byte) :=
  (rows.zipIdx r).flatMap fun (row, r) => (List.range 8).map fun c => (r, c, row)

/-- The cell a pixel lands on. -/
def pixelCell (startX startY : Byte) (p : Nat × Nat × Byte) : Fin 32 × Fin 64 :=
  (pixelRow startY p.1, pixelColumn startX p.2.1)

/-- One pixel of the blit, taken from the list. -/
def blitStep (startX startY : Byte) (acc : Display × Bool) (p : Nat × Nat × Byte) : Display × Bool :=
  blitPixel startX startY p.2.2 p.1 p.2.1 acc

theorem blitRows_eq_foldl (startX startY : Byte) (r : Nat) (rows : List Byte) (acc : Display × Bool) :
    blitRows startX startY r rows acc = (spritePixels r rows).foldl (blitStep startX startY) acc := by
  induction rows generalizing r acc with
  | nil => rfl
  | cons b bs ih =>
    have hrow : blitRow startX startY b r acc =
        ((List.range 8).map fun c => (r, c, b)).foldl (blitStep startX startY) acc := by
      rw [blitRow, List.foldl_map]; rfl
    rw [blitRows, ih, hrow]
    simp only [spritePixels, List.zipIdx_cons, List.flatMap_cons, List.foldl_append]

theorem mem_spritePixels {rows : List Byte} {p : Nat × Nat × Byte} :
    p ∈ spritePixels 0 rows ↔ p.2.1 < 8 ∧ rows[p.1]? = some p.2.2 := by
  obtain ⟨r, c, b⟩ := p
  simp only [spritePixels, List.mem_flatMap, List.mem_map, List.mem_range, Prod.exists,
    List.mem_zipIdx_iff_getElem?, Prod.mk.injEq]
  constructor
  · rintro ⟨a, k, hk, c', hc, rfl, rfl, rfl⟩
    exact ⟨hc, hk⟩
  · rintro ⟨hc, hk⟩
    exact ⟨b, r, hk, c, hc, rfl, rfl, rfl⟩

theorem nodup_spritePixels (rows : List Byte) (r : Nat) :
    (spritePixels r rows).Nodup ∧ ∀ p ∈ spritePixels r rows, r ≤ p.1 := by
  induction rows generalizing r with
  | nil => simp [spritePixels]
  | cons b bs ih =>
    obtain ⟨hnd, hle⟩ := ih (r + 1)
    have e : spritePixels r (b :: bs) =
        ((List.range 8).map fun c => (r, c, b)) ++ spritePixels (r + 1) bs := by
      simp only [spritePixels, List.zipIdx_cons, List.flatMap_cons]
    rw [e]
    constructor
    · refine List.Nodup.append (List.Nodup.map (fun a b => by simp) List.nodup_range) hnd ?_
      intro p hp hq
      have := hle p hq
      obtain ⟨c, -, rfl⟩ := List.mem_map.mp hp
      simp at this
    · intro p hp
      rcases List.mem_append.mp hp with h | h
      · obtain ⟨c, -, rfl⟩ := List.mem_map.mp h
        exact le_refl _
      · have := hle p h
        omega

/-- At most 15 rows of 8 pixels land on different cells. -/
theorem nodup_pixelCells (startX startY : Byte) (rows : List Byte) (h : rows.length ≤ 15) :
    ((spritePixels 0 rows).map (pixelCell startX startY)).Nodup := by
  refine List.Nodup.map_on ?_ (nodup_spritePixels rows 0).1
  intro p hp q hq e
  obtain ⟨r, c, b⟩ := p
  obtain ⟨r', c', b'⟩ := q
  obtain ⟨hc, hr⟩ := mem_spritePixels.mp hp
  obtain ⟨hc', hr'⟩ := mem_spritePixels.mp hq
  have l := (List.getElem?_eq_some_iff.mp hr).1
  have l' := (List.getElem?_eq_some_iff.mp hr').1
  simp only [pixelCell, pixelRow, pixelColumn, Prod.mk.injEq, Fin.ext_iff, Fin.ofNat] at *
  obtain rfl : r = r' := by omega
  obtain rfl : c = c' := by omega
  rw [hr] at hr'
  cases hr'
  exact ⟨rfl, rfl, rfl⟩

/-- What drawing a list of pixels does to a cell. -/
theorem cell_foldl_blitStep (startX startY : Byte) (ps : List (Nat × Nat × Byte))
    (hnd : (ps.map (pixelCell startX startY)).Nodup) (acc : Display × Bool) (cy : Fin 32) (cx : Fin 64) :
    (ps.foldl (blitStep startX startY) acc).1.cell cy cx =
      (acc.1.cell cy cx ^^
        ps.any fun p => decide (pixelCell startX startY p = (cy, cx)) && spritePixel p.2.2 p.2.1) := by
  induction ps generalizing acc with
  | nil => simp
  | cons p ps ih =>
    simp only [List.map_cons, List.nodup_cons] at hnd
    rw [List.foldl_cons, ih hnd.2, blitStep, cell_blitPixel, List.any_cons]
    by_cases h : pixelCell startX startY p = (cy, cx)
    · have h' := h
      simp only [pixelCell, Prod.mk.injEq] at h'
      rw [if_pos ⟨h'.1.symm, h'.2.symm⟩]
      have hno : (ps.any fun p =>
          decide (pixelCell startX startY p = (cy, cx)) && spritePixel p.2.2 p.2.1) = false := by
        rw [List.any_eq_false]
        intro q hq hc
        simp only [Bool.and_eq_true, decide_eq_true_eq] at hc
        exact hnd.1 (List.mem_map.mpr ⟨q, hq, by rw [h, hc.1]⟩)
      simp [hno, h]
    · have h' := h
      simp only [pixelCell, Prod.mk.injEq] at h'
      rw [if_neg (by rintro ⟨a, b⟩; exact h' ⟨a.symm, b.symm⟩)]
      simp [h]

/-- What drawing a list of pixels records as collision. -/
theorem collision_foldl_blitStep (startX startY : Byte) (ps : List (Nat × Nat × Byte))
    (hnd : (ps.map (pixelCell startX startY)).Nodup) (acc : Display × Bool) :
    (ps.foldl (blitStep startX startY) acc).2 =
      (acc.2 || ps.any fun p =>
        acc.1.cell (pixelCell startX startY p).1 (pixelCell startX startY p).2 && spritePixel p.2.2 p.2.1) := by
  induction ps generalizing acc with
  | nil => simp
  | cons p ps ih =>
    simp only [List.map_cons, List.nodup_cons] at hnd
    rw [List.foldl_cons, ih hnd.2, List.any_cons, ← Bool.or_assoc]
    congr 1
    rw [Bool.eq_iff_iff, List.any_eq_true, List.any_eq_true]
    refine exists_congr fun q => and_congr_right fun hq => ?_
    have hne : pixelCell startX startY q ≠ pixelCell startX startY p :=
      fun e => hnd.1 (e ▸ List.mem_map_of_mem hq)
    rw [blitStep, cell_blitPixel, if_neg (by rintro ⟨a, b⟩; exact hne (Prod.ext a b))]

end Sys2Proof.Machine
end

