-- ==== Sys2Proof/Laws/Encoding.lean ====
section
/-! SUPPORT. The fields of a formatted word (R81, R82), and a word rebuilt from its fields. -/

namespace Sys2Proof

theorem fieldFamily_formatNNN (o : BitVec 4) (a : Addr) : fieldFamily (formatNNN o a) = o := by
  ext i h
  simp only [fieldFamily, formatNNN, BitVec.getElem_extractLsb', BitVec.getLsbD_append]
  rw [if_neg (by omega)]
  rw [show 12 + i - 12 = i by omega, BitVec.getLsbD_eq_getElem]

theorem fieldNnn_formatNNN (o : BitVec 4) (a : Addr) : fieldNnn (formatNNN o a) = a := by
  ext i h
  simp only [fieldNnn, formatNNN, BitVec.getElem_extractLsb', BitVec.getLsbD_append]
  rw [if_pos (by omega), Nat.zero_add, BitVec.getLsbD_eq_getElem]

theorem fieldFamily_formatXKK (o : BitVec 4) (x : Reg) (kk : Byte) : fieldFamily (formatXKK o x kk) = o := by
  ext i h
  simp only [fieldFamily, formatXKK, BitVec.getElem_extractLsb', BitVec.getLsbD_append]
  rw [if_neg (by omega), if_neg (by omega)]
  rw [show 12 + i - 8 - 4 = i by omega, BitVec.getLsbD_eq_getElem]

theorem fieldX_formatXKK (o : BitVec 4) (x : Reg) (kk : Byte) : fieldX (formatXKK o x kk) = x := by
  ext i h
  simp only [fieldX, formatXKK, BitVec.getElem_extractLsb', BitVec.getLsbD_append]
  rw [if_neg (by omega), if_pos (by omega)]
  rw [show 8 + i - 8 = i by omega, BitVec.getLsbD_eq_getElem]

theorem fieldKk_formatXKK (o : BitVec 4) (x : Reg) (kk : Byte) : fieldKk (formatXKK o x kk) = kk := by
  ext i h
  simp only [fieldKk, formatXKK, BitVec.getElem_extractLsb', BitVec.getLsbD_append]
  rw [if_pos (by omega), Nat.zero_add, BitVec.getLsbD_eq_getElem]

theorem fieldFamily_formatXYN (o n : BitVec 4) (x y : Reg) : fieldFamily (formatXYN o x y n) = o := by
  ext i h
  simp only [fieldFamily, formatXYN, BitVec.getElem_extractLsb', BitVec.getLsbD_append]
  rw [if_neg (by omega), if_neg (by omega), if_neg (by omega)]
  rw [show 12 + i - 4 - 4 - 4 = i by omega, BitVec.getLsbD_eq_getElem]

theorem fieldX_formatXYN (o n : BitVec 4) (x y : Reg) : fieldX (formatXYN o x y n) = x := by
  ext i h
  simp only [fieldX, formatXYN, BitVec.getElem_extractLsb', BitVec.getLsbD_append]
  rw [if_neg (by omega), if_neg (by omega), if_pos (by omega)]
  rw [show 8 + i - 4 - 4 = i by omega, BitVec.getLsbD_eq_getElem]

theorem fieldY_formatXYN (o n : BitVec 4) (x y : Reg) : fieldY (formatXYN o x y n) = y := by
  ext i h
  simp only [fieldY, formatXYN, BitVec.getElem_extractLsb', BitVec.getLsbD_append]
  rw [if_neg (by omega), if_pos (by omega)]
  rw [show 4 + i - 4 = i by omega, BitVec.getLsbD_eq_getElem]

theorem fieldN_formatXYN (o n : BitVec 4) (x y : Reg) : fieldN (formatXYN o x y n) = n := by
  ext i h
  simp only [fieldN, formatXYN, BitVec.getElem_extractLsb', BitVec.getLsbD_append]
  rw [if_pos (by omega), Nat.zero_add, BitVec.getLsbD_eq_getElem]

/-- A word is its family nibble followed by `nnn`. -/
theorem formatNNN_fields (w : Word) : formatNNN (fieldFamily w) (fieldNnn w) = w := by
  refine BitVec.eq_of_getLsbD_eq fun i h => ?_
  change BitVec.getLsbD (w.extractLsb' 12 4 ++ w.extractLsb' 0 12) i = _
  simp only [BitVec.getLsbD_append, BitVec.getLsbD_extractLsb']
  split_ifs with h1
  · simp [h1]
  · rw [show 12 + (i - 12) = i by omega]
    simp [show i - 12 < 4 by omega]

/-- A word is its family nibble followed by `x` and `kk`. -/
theorem formatXKK_fields (w : Word) : formatXKK (fieldFamily w) (fieldX w) (fieldKk w) = w := by
  refine BitVec.eq_of_getLsbD_eq fun i h => ?_
  change BitVec.getLsbD (w.extractLsb' 12 4 ++ w.extractLsb' 8 4 ++ w.extractLsb' 0 8) i = _
  simp only [BitVec.getLsbD_append, BitVec.getLsbD_extractLsb']
  split_ifs with h1 h2
  · simp [h1]
  · rw [show 8 + (i - 8) = i by omega]
    simp [h2]
  · rw [show 12 + (i - 8 - 4) = i by omega]
    simp [show i - 8 - 4 < 4 by omega]

/-- A word is its family nibble followed by `x`, `y` and its last nibble. -/
theorem formatXYN_fields (w : Word) : formatXYN (fieldFamily w) (fieldX w) (fieldY w) (fieldN w) = w := by
  refine BitVec.eq_of_getLsbD_eq fun i h => ?_
  change BitVec.getLsbD (w.extractLsb' 12 4 ++ w.extractLsb' 8 4 ++ w.extractLsb' 4 4 ++ w.extractLsb' 0 4) i = _
  simp only [BitVec.getLsbD_append, BitVec.getLsbD_extractLsb']
  split_ifs with h1 h2 h3
  · simp [h1]
  · rw [show 4 + (i - 4) = i by omega]
    simp [h2]
  · rw [show 8 + (i - 4 - 4) = i by omega]
    simp [h3]
  · rw [show 12 + (i - 4 - 4 - 4) = i by omega]
    simp [show i - 4 - 4 - 4 < 4 by omega]

/-- The bytes of a word, put together again. -/
theorem wordOfBytes_bytesOfWord (w : Word) : wordOfBytes (w.extractLsb' 8 8) (w.extractLsb' 0 8) = w := by
  refine BitVec.eq_of_getLsbD_eq fun i h => ?_
  change BitVec.getLsbD (w.extractLsb' 8 8 ++ w.extractLsb' 0 8) i = _
  simp only [BitVec.getLsbD_append, BitVec.getLsbD_extractLsb']
  split_ifs with h1
  · simp [h1]
  · rw [show 8 + (i - 8) = i by omega]
    simp [show i - 8 < 8 by omega]

/-- The high byte of a fetched word is the byte at the lower address (R62). -/
theorem toNat_wordOfBytes (hi lo : Byte) : (wordOfBytes hi lo).toNat = hi.toNat * 256 + lo.toNat := by
  change (hi ++ lo).toNat = _
  rw [BitVec.toNat_append, ← Nat.shiftLeft_add_eq_or_of_lt lo.isLt, Nat.shiftLeft_eq]

end Sys2Proof
end

