-- ==== Sys2Proof/Laws/PerInstr.lean ====
section
/-! SUPPORT. The family `EncodesToTableRow`: every instruction encodes to a word that its row of the opcode
map of R84 covers. One lemma per constructor of Instr. -/

namespace Sys2Proof

theorem formatNNN_and (o : BitVec 4) (a : Addr) : formatNNN o a &&& 0xF000#16 = formatNNN o 0#12 := by
  rw [show (0xF000#16 : Word) = 0xF#4 ++ 0x000#12 by decide]
  change (o ++ a) &&& (0xF#4 ++ 0x000#12) = o ++ 0x000#12
  rw [BitVec.and_append, show (0xF#4) = BitVec.allOnes 4 by decide, BitVec.and_allOnes, BitVec.and_zero]

theorem formatXKK_and_F000 (o : BitVec 4) (x : Reg) (kk : Byte) :
    formatXKK o x kk &&& 0xF000#16 = formatXKK o 0#4 0#8 := by
  rw [show (0xF000#16 : Word) = 0xF#4 ++ 0x0#4 ++ 0x00#8 by decide]
  change (o ++ x ++ kk) &&& (0xF#4 ++ 0x0#4 ++ 0x00#8) = o ++ 0#4 ++ 0#8
  rw [BitVec.and_append, BitVec.and_append, show (0xF#4) = BitVec.allOnes 4 by decide,
    BitVec.and_allOnes, BitVec.and_zero, BitVec.and_zero]

theorem formatXKK_and_F0FF (o : BitVec 4) (x : Reg) (kk : Byte) :
    formatXKK o x kk &&& 0xF0FF#16 = formatXKK o 0#4 kk := by
  rw [show (0xF0FF#16 : Word) = 0xF#4 ++ 0x0#4 ++ 0xFF#8 by decide]
  change (o ++ x ++ kk) &&& (0xF#4 ++ 0x0#4 ++ 0xFF#8) = o ++ 0#4 ++ kk
  rw [BitVec.and_append, BitVec.and_append, show (0xF#4) = BitVec.allOnes 4 by decide,
    show (0xFF#8) = BitVec.allOnes 8 by decide, BitVec.and_allOnes, BitVec.and_allOnes, BitVec.and_zero]

theorem formatXYN_and_F00F (o n : BitVec 4) (x y : Reg) :
    formatXYN o x y n &&& 0xF00F#16 = formatXYN o 0#4 0#4 n := by
  rw [show (0xF00F#16 : Word) = 0xF#4 ++ 0x0#4 ++ 0x0#4 ++ 0xF#4 by decide]
  change (o ++ x ++ y ++ n) &&& (0xF#4 ++ 0x0#4 ++ 0x0#4 ++ 0xF#4) = o ++ 0#4 ++ 0#4 ++ n
  rw [BitVec.and_append, BitVec.and_append, BitVec.and_append, show (0xF#4) = BitVec.allOnes 4 by decide,
    BitVec.and_allOnes, BitVec.and_allOnes, BitVec.and_zero, BitVec.and_zero]

theorem formatXYN_and_F000 (o n : BitVec 4) (x y : Reg) :
    formatXYN o x y n &&& 0xF000#16 = formatXYN o 0#4 0#4 0#4 := by
  rw [show (0xF000#16 : Word) = 0xF#4 ++ 0x0#4 ++ 0x0#4 ++ 0x0#4 by decide]
  change (o ++ x ++ y ++ n) &&& (0xF#4 ++ 0x0#4 ++ 0x0#4 ++ 0x0#4) = o ++ 0#4 ++ 0#4 ++ 0#4
  rw [BitVec.and_append, BitVec.and_append, BitVec.and_append, show (0xF#4) = BitVec.allOnes 4 by decide,
    BitVec.and_allOnes, BitVec.and_zero, BitVec.and_zero, BitVec.and_zero]

namespace Laws.EncodesToTableRow

/-- The row of the opcode map with the instruction's mnemonic covers its word. -/
def Statement (i : Instr) : Prop := ∃ row ∈ opcodeRows, row.mnemonic = i.mnemonic ∧ row.covers (encode i)

/-- A row of the map, given by its mask and pattern, settles the statement. -/
theorem of_row {i : Instr} (mask pattern : Word) (hmem : ⟨i.mnemonic, mask, pattern⟩ ∈ opcodeRows)
    (h : encode i &&& mask = pattern) : Statement i :=
  ⟨_, hmem, rfl, h⟩

theorem cls : Statement .cls := of_row 0xFFFF 0x00E0 (by decide) (by decide)
theorem ret : Statement .ret := of_row 0xFFFF 0x00EE (by decide) (by decide)
theorem jp (nnn : Addr) : Statement (.jp nnn) :=
  of_row 0xF000 0x1000 (by simp only [Instr.mnemonic]; decide) ((formatNNN_and _ _).trans (by decide))
theorem call (nnn : Addr) : Statement (.call nnn) :=
  of_row 0xF000 0x2000 (by simp only [Instr.mnemonic]; decide) ((formatNNN_and _ _).trans (by decide))
theorem seImm (x : Reg) (kk : Byte) : Statement (.seImm x kk) :=
  of_row 0xF000 0x3000 (by simp only [Instr.mnemonic]; decide) ((formatXKK_and_F000 _ _ _).trans (by decide))
theorem sneImm (x : Reg) (kk : Byte) : Statement (.sneImm x kk) :=
  of_row 0xF000 0x4000 (by simp only [Instr.mnemonic]; decide) ((formatXKK_and_F000 _ _ _).trans (by decide))
theorem seReg (x y : Reg) : Statement (.seReg x y) :=
  of_row 0xF00F 0x5000 (by simp only [Instr.mnemonic]; decide) ((formatXYN_and_F00F _ _ _ _).trans (by decide))
theorem ldImm (x : Reg) (kk : Byte) : Statement (.ldImm x kk) :=
  of_row 0xF000 0x6000 (by simp only [Instr.mnemonic]; decide) ((formatXKK_and_F000 _ _ _).trans (by decide))
theorem addImm (x : Reg) (kk : Byte) : Statement (.addImm x kk) :=
  of_row 0xF000 0x7000 (by simp only [Instr.mnemonic]; decide) ((formatXKK_and_F000 _ _ _).trans (by decide))
theorem ldReg (x y : Reg) : Statement (.ldReg x y) :=
  of_row 0xF00F 0x8000 (by simp only [Instr.mnemonic]; decide) ((formatXYN_and_F00F _ _ _ _).trans (by decide))
theorem orReg (x y : Reg) : Statement (.orReg x y) :=
  of_row 0xF00F 0x8001 (by simp only [Instr.mnemonic]; decide) ((formatXYN_and_F00F _ _ _ _).trans (by decide))
theorem andReg (x y : Reg) : Statement (.andReg x y) :=
  of_row 0xF00F 0x8002 (by simp only [Instr.mnemonic]; decide) ((formatXYN_and_F00F _ _ _ _).trans (by decide))
theorem xorReg (x y : Reg) : Statement (.xorReg x y) :=
  of_row 0xF00F 0x8003 (by simp only [Instr.mnemonic]; decide) ((formatXYN_and_F00F _ _ _ _).trans (by decide))
theorem addReg (x y : Reg) : Statement (.addReg x y) :=
  of_row 0xF00F 0x8004 (by simp only [Instr.mnemonic]; decide) ((formatXYN_and_F00F _ _ _ _).trans (by decide))
theorem sub (x y : Reg) : Statement (.sub x y) :=
  of_row 0xF00F 0x8005 (by simp only [Instr.mnemonic]; decide) ((formatXYN_and_F00F _ _ _ _).trans (by decide))
theorem shr (x y : Reg) : Statement (.shr x y) :=
  of_row 0xF00F 0x8006 (by simp only [Instr.mnemonic]; decide) ((formatXYN_and_F00F _ _ _ _).trans (by decide))
theorem subn (x y : Reg) : Statement (.subn x y) :=
  of_row 0xF00F 0x8007 (by simp only [Instr.mnemonic]; decide) ((formatXYN_and_F00F _ _ _ _).trans (by decide))
theorem shl (x y : Reg) : Statement (.shl x y) :=
  of_row 0xF00F 0x800E (by simp only [Instr.mnemonic]; decide) ((formatXYN_and_F00F _ _ _ _).trans (by decide))
theorem sneReg (x y : Reg) : Statement (.sneReg x y) :=
  of_row 0xF00F 0x9000 (by simp only [Instr.mnemonic]; decide) ((formatXYN_and_F00F _ _ _ _).trans (by decide))
theorem ldI (nnn : Addr) : Statement (.ldI nnn) :=
  of_row 0xF000 0xA000 (by simp only [Instr.mnemonic]; decide) ((formatNNN_and _ _).trans (by decide))
theorem jpV0 (nnn : Addr) : Statement (.jpV0 nnn) :=
  of_row 0xF000 0xB000 (by simp only [Instr.mnemonic]; decide) ((formatNNN_and _ _).trans (by decide))
theorem rnd (x : Reg) (kk : Byte) : Statement (.rnd x kk) :=
  of_row 0xF000 0xC000 (by simp only [Instr.mnemonic]; decide) ((formatXKK_and_F000 _ _ _).trans (by decide))
theorem drw (x y : Reg) (n : Nibble) : Statement (.drw x y n) :=
  of_row 0xF000 0xD000 (by simp only [Instr.mnemonic]; decide) ((formatXYN_and_F000 _ _ _ _).trans (by decide))
theorem skp (x : Reg) : Statement (.skp x) :=
  of_row 0xF0FF 0xE09E (by simp only [Instr.mnemonic]; decide) ((formatXKK_and_F0FF _ _ _).trans (by decide))
theorem sknp (x : Reg) : Statement (.sknp x) :=
  of_row 0xF0FF 0xE0A1 (by simp only [Instr.mnemonic]; decide) ((formatXKK_and_F0FF _ _ _).trans (by decide))
theorem ldVxDt (x : Reg) : Statement (.ldVxDt x) :=
  of_row 0xF0FF 0xF007 (by simp only [Instr.mnemonic]; decide) ((formatXKK_and_F0FF _ _ _).trans (by decide))
theorem ldVxK (x : Reg) : Statement (.ldVxK x) :=
  of_row 0xF0FF 0xF00A (by simp only [Instr.mnemonic]; decide) ((formatXKK_and_F0FF _ _ _).trans (by decide))
theorem ldDtVx (x : Reg) : Statement (.ldDtVx x) :=
  of_row 0xF0FF 0xF015 (by simp only [Instr.mnemonic]; decide) ((formatXKK_and_F0FF _ _ _).trans (by decide))
theorem ldStVx (x : Reg) : Statement (.ldStVx x) :=
  of_row 0xF0FF 0xF018 (by simp only [Instr.mnemonic]; decide) ((formatXKK_and_F0FF _ _ _).trans (by decide))
theorem addIVx (x : Reg) : Statement (.addIVx x) :=
  of_row 0xF0FF 0xF01E (by simp only [Instr.mnemonic]; decide) ((formatXKK_and_F0FF _ _ _).trans (by decide))
theorem ldFVx (x : Reg) : Statement (.ldFVx x) :=
  of_row 0xF0FF 0xF029 (by simp only [Instr.mnemonic]; decide) ((formatXKK_and_F0FF _ _ _).trans (by decide))
theorem ldBVx (x : Reg) : Statement (.ldBVx x) :=
  of_row 0xF0FF 0xF033 (by simp only [Instr.mnemonic]; decide) ((formatXKK_and_F0FF _ _ _).trans (by decide))
theorem ldMemVx (x : Reg) : Statement (.ldMemVx x) :=
  of_row 0xF0FF 0xF055 (by simp only [Instr.mnemonic]; decide) ((formatXKK_and_F0FF _ _ _).trans (by decide))
theorem ldVxMem (x : Reg) : Statement (.ldVxMem x) :=
  of_row 0xF0FF 0xF065 (by simp only [Instr.mnemonic]; decide) ((formatXKK_and_F0FF _ _ _).trans (by decide))

end Laws.EncodesToTableRow

end Sys2Proof
end

