-- ==== Sys2Proof/Tests/Slice0.lean ====
section
/-! SUPPORT. Tests of the model, and a witness for every obligation that has hypotheses. The expected results
are those of spec/95_test_vectors.md, cited by the number of the vector, or of the rule cited. -/

namespace Sys2Proof.Tests

open Sys2Proof.Machine

/-! ## Helpers -/

/-- The reset state with bytes stored from an address on. -/
def withBytes (a : Nat) (bytes : List Byte) (s : State := State.reset) : State :=
  s.setMem (s.mem.writeBytes a bytes)

/-- The state after one tick of the instruction word `w` placed at PC. -/
def after (w : Word) (s : State) : Option State :=
  match tick (withBytes s.pc.toNat (bytesOfWord w) s) with
  | .next t => some t
  | _ => none

/-- The reset state with V[x] and V[y] set, and VF if it is neither, to 0x55. -/
def withRegs (x : Reg) (a : Byte) (y : Reg) (b : Byte) : State :=
  ((State.reset.setV regF 0x55#8).setV x a).setV y b

/-- V[x], VF and PC after one tick. -/
def regs (w : Word) (x : Reg) (s : State) : Option (Byte × Byte × Word) :=
  (after w s).map fun t => (t.getV x, t.getV regF, t.pc)

/-- PC and the signal or fault of one tick. -/
def pcAndResult (w : Word) (s : State) : Option (Word × TickResult) :=
  (after w s).map fun t => (t.pc, t.result)

/-- The latch after one tick, and whether nothing but the latch and the result differs from before it. -/
def faultOnly (w : Word) (s : State) : Option (Option FaultRecord × Bool) :=
  (after w s).map fun t =>
    (t.fault, t == { withBytes s.pc.toNat (bytesOfWord w) s with fault := t.fault, result := t.result })

/-- The lit cells of a grid row, by column. -/
def litInRow (d : Display) (r : Fin 32) : List Nat :=
  ((List.finRange 64).filter fun c => d.cell r c).map (·.val)

/-- What a draw shows: the lit columns of two rows, and VF. -/
def drawn (w : Word) (r r' : Fin 32) (s : State) : Option (List Nat × List Nat × Byte) :=
  (after w s).map fun t => (litInRow t.fb r, litInRow t.fb r', t.getV regF)

/-! ## Ill-formed terms are refused -/

/-- D1 to D6: words that no row of the opcode map covers, one family each line. -/
theorem test_illFormed_words :
    Word.wellFormed 0x0000#16 = false ∧ Word.wellFormed 0x00E1#16 = false ∧ Word.wellFormed 0x0123#16 = false ∧
    Word.wellFormed 0x5121#16 = false ∧ Word.wellFormed 0x8008#16 = false ∧ Word.wellFormed 0x800F#16 = false ∧
    Word.wellFormed 0x9AB1#16 = false ∧ Word.wellFormed 0xE09F#16 = false ∧ Word.wellFormed 0xF000#16 = false ∧
    Word.wellFormed 0xF1FB#16 = false ∧ Word.wellFormed 0x00E0#16 = true := by decide

/-- The decoder refuses the same words, by name. -/
theorem test_illFormed_words_decode :
    decodeWord 0x0000#16 = .error (.invalidOpcode 0x0000#16) ∧
    decodeWord 0x5121#16 = .error (.invalidOpcode 0x5121#16) ∧
    decodeWord 0x8008#16 = .error (.invalidOpcode 0x8008#16) ∧
    decodeWord 0x9AB1#16 = .error (.invalidOpcode 0x9AB1#16) ∧
    decodeWord 0xE09F#16 = .error (.invalidOpcode 0xE09F#16) ∧
    decodeWord 0xF1FB#16 = .error (.invalidOpcode 0xF1FB#16) := ⟨rfl, rfl, rfl, rfl, rfl, rfl⟩

/-- S14: 3584 bytes fit, 3585 do not. -/
theorem test_illFormed_program :
    programFits (List.replicate 3585 0#8) = false ∧ programFits (List.replicate 3584 0#8) = true := by
  simp only [programFits, List.length_replicate]
  exact ⟨rfl, rfl⟩

/-- A font of 79 bytes and a stack of no slot are refused, the configuration of the machine is not. -/
theorem test_illFormed_config :
    Config.wellFormed { params with font := params.font.tail } = false ∧
    Config.wellFormed { params with stackCapacity := 0 } = false ∧
    Config.wellFormed params = true := by decide

/-! ## Decoding: one word per row of the opcode map, written out from its pattern (R84) -/

theorem test_decode_0_to_7 :
    decodeWord 0x00E0#16 = .ok .cls ∧ decodeWord 0x00EE#16 = .ok .ret ∧
    decodeWord 0x1ABC#16 = .ok (.jp 0xABC#12) ∧ decodeWord 0x2ABC#16 = .ok (.call 0xABC#12) ∧
    decodeWord 0x332B#16 = .ok (.seImm 0x3#4 0x2B#8) ∧ decodeWord 0x432B#16 = .ok (.sneImm 0x3#4 0x2B#8) ∧
    decodeWord 0x5120#16 = .ok (.seReg 0x1#4 0x2#4) ∧ decodeWord 0x6A7F#16 = .ok (.ldImm 0xA#4 0x7F#8) ∧
    decodeWord 0x7AFF#16 = .ok (.addImm 0xA#4 0xFF#8) := ⟨rfl, rfl, rfl, rfl, rfl, rfl, rfl, rfl, rfl⟩

theorem test_decode_8 :
    decodeWord 0x8230#16 = .ok (.ldReg 0x2#4 0x3#4) ∧ decodeWord 0x8231#16 = .ok (.orReg 0x2#4 0x3#4) ∧
    decodeWord 0x8232#16 = .ok (.andReg 0x2#4 0x3#4) ∧ decodeWord 0x8233#16 = .ok (.xorReg 0x2#4 0x3#4) ∧
    decodeWord 0x8234#16 = .ok (.addReg 0x2#4 0x3#4) ∧ decodeWord 0x8235#16 = .ok (.sub 0x2#4 0x3#4) ∧
    decodeWord 0x8236#16 = .ok (.shr 0x2#4 0x3#4) ∧ decodeWord 0x8237#16 = .ok (.subn 0x2#4 0x3#4) ∧
    decodeWord 0x823E#16 = .ok (.shl 0x2#4 0x3#4) := ⟨rfl, rfl, rfl, rfl, rfl, rfl, rfl, rfl, rfl⟩

theorem test_decode_9_to_E :
    decodeWord 0x9120#16 = .ok (.sneReg 0x1#4 0x2#4) ∧ decodeWord 0xAFFE#16 = .ok (.ldI 0xFFE#12) ∧
    decodeWord 0xB301#16 = .ok (.jpV0 0x301#12) ∧ decodeWord 0xC30F#16 = .ok (.rnd 0x3#4 0x0F#8) ∧
    decodeWord 0xD125#16 = .ok (.drw 0x1#4 0x2#4 0x5#4) ∧ decodeWord 0xE59E#16 = .ok (.skp 0x5#4) ∧
    decodeWord 0xE5A1#16 = .ok (.sknp 0x5#4) := ⟨rfl, rfl, rfl, rfl, rfl, rfl, rfl⟩

theorem test_decode_F :
    decodeWord 0xF107#16 = .ok (.ldVxDt 0x1#4) ∧ decodeWord 0xF30A#16 = .ok (.ldVxK 0x3#4) ∧
    decodeWord 0xF115#16 = .ok (.ldDtVx 0x1#4) ∧ decodeWord 0xF118#16 = .ok (.ldStVx 0x1#4) ∧
    decodeWord 0xF01E#16 = .ok (.addIVx 0x0#4) ∧ decodeWord 0xF029#16 = .ok (.ldFVx 0x0#4) ∧
    decodeWord 0xF433#16 = .ok (.ldBVx 0x4#4) ∧ decodeWord 0xF255#16 = .ok (.ldMemVx 0x2#4) ∧
    decodeWord 0xFF65#16 = .ok (.ldVxMem 0xF#4) := ⟨rfl, rfl, rfl, rfl, rfl, rfl, rfl, rfl, rfl⟩

/-- S11: the byte at the lower address is the high byte. -/
theorem test_fetch_bigEndian : fetch (withBytes 0x200 [0x23#8, 0x00#8]) = .ok 0x2300#16 := rfl

/-- D9: an odd PC fetches; D8: at 4095 the second byte is out of range. -/
theorem test_fetch_pc :
    fetch (withBytes 0x201 [0x61#8, 0x07#8] (State.reset.setPc 0x201#16)) = .ok 0x6107#16 ∧
    fetch (State.reset.setPc 0xFFF#16) = .error 4096 ∧
    fetch (State.reset.setPc 0x10FE#16) = .error 0x10FE := ⟨rfl, rfl, rfl⟩

/-! ## Control transfer -/

/-- F1, F2. -/
theorem test_jp : pcAndResult 0x1234#16 State.reset = some (0x234#16, .ok .nothing) := by decide

/-- F4. -/
theorem test_call :
    (after 0x2ABC#16 State.reset).map (fun t => (t.stack[0]'(by decide), t.sp.val, t.pc)) = some (0x202#16, 1, 0xABC#16) := by
  decide

/-- F5. -/
theorem test_call_full :
    faultOnly 0x2ABC#16 { State.reset with sp := 16 } =
      some (some ⟨.stackOverflow, some 0x200#16, some 0x2ABC#16, none⟩, true) := by decide

/-- F7: an odd return address is accepted. -/
theorem test_ret :
    (after 0x00EE#16 { State.reset with sp := 1, stack := State.reset.stack.set 0 0xABD#16 (by decide) }).map
      (fun t => (t.sp.val, t.pc)) = some (0, 0xABD#16) := by decide

/-- S8. -/
theorem test_ret_empty :
    faultOnly 0x00EE#16 State.reset =
      some (some ⟨.stackUnderflow, some 0x200#16, some 0x00EE#16, none⟩, true) := by decide

/-- F8, F9. -/
theorem test_seImm :
    pcAndResult 0x332A#16 (State.reset.setV 3#4 0x2A#8) = some (0x204#16, .ok .nothing) ∧
    pcAndResult 0x332B#16 (State.reset.setV 3#4 0x2A#8) = some (0x202#16, .ok .nothing) := by decide

/-- F10. -/
theorem test_sneImm :
    pcAndResult 0x432A#16 (State.reset.setV 3#4 0x2A#8) = some (0x202#16, .ok .nothing) ∧
    pcAndResult 0x432B#16 (State.reset.setV 3#4 0x2A#8) = some (0x204#16, .ok .nothing) := by decide

/-- F12, F13. -/
theorem test_seReg :
    pcAndResult 0x5120#16 (withRegs 1#4 7#8 2#4 7#8) = some (0x204#16, .ok .nothing) ∧
    pcAndResult 0x5120#16 (withRegs 1#4 7#8 2#4 8#8) = some (0x202#16, .ok .nothing) := by decide

/-- F12, F13. -/
theorem test_sneReg :
    pcAndResult 0x9120#16 (withRegs 1#4 7#8 2#4 7#8) = some (0x202#16, .ok .nothing) ∧
    pcAndResult 0x9120#16 (withRegs 1#4 7#8 2#4 8#8) = some (0x204#16, .ok .nothing) := by decide

/-- F16, F17: the target is not reduced, and the offset register is V[0]. -/
theorem test_jpV0 :
    pcAndResult 0xBFFF#16 (State.reset.setV 0#4 0xFF#8) = some (0x10FE#16, .ok .nothing) ∧
    pcAndResult 0xB300#16 (withRegs 0#4 1#8 3#4 0x50#8) = some (0x301#16, .ok .nothing) := by decide

/-- F18: a skip at 4094 leaves PC = 4098. -/
theorem test_skip_at_top :
    pcAndResult 0x3000#16 (State.reset.setPc 4094#16) = some (4098#16, .ok .nothing) := by decide

/-! ## Loads, add immediate, random -/

/-- L1. -/
theorem test_ldImm : regs 0x6A7F#16 0xA#4 State.reset = some (0x7F#8, 0x00#8, 0x202#16) := by decide

/-- L3: no carry flag. -/
theorem test_addImm : regs 0x7AFF#16 0xA#4 (State.reset.setV 0xA#4 1#8 |>.setV regF 0x55#8) =
    some (0x00#8, 0x55#8, 0x202#16) := by decide

/-- L6. -/
theorem test_ldI : (after 0xAFFF#16 State.reset).map (·.i) = some 0x0FFF#16 := by decide

/-- L7, L8. -/
theorem test_rnd :
    regs 0xC30F#16 3#4 { State.reset with rnd := 0xA7#8 } = some (0x07#8, 0x00#8, 0x202#16) ∧
    regs 0xC300#16 3#4 { State.reset with rnd := 0xA7#8 } = some (0x00#8, 0x00#8, 0x202#16) := by decide

/-! ## The register family -/

/-- A1. -/
theorem test_ldReg : regs 0x8120#16 1#4 (withRegs 1#4 0xF0#8 2#4 0x3C#8) = some (0x3C#8, 0x55#8, 0x202#16) := by
  decide

/-- A2. -/
theorem test_or : regs 0x8121#16 1#4 (withRegs 1#4 0xF0#8 2#4 0x0F#8) = some (0xFF#8, 0x55#8, 0x202#16) := by
  decide

/-- A3. -/
theorem test_and : regs 0x8122#16 1#4 (withRegs 1#4 0xF0#8 2#4 0x3C#8) = some (0x30#8, 0x55#8, 0x202#16) := by
  decide

/-- A4. -/
theorem test_xor : regs 0x8123#16 1#4 (withRegs 1#4 0xF0#8 2#4 0x3C#8) = some (0xCC#8, 0x55#8, 0x202#16) := by
  decide

/-- S2, A6: carry and the sum 255. -/
theorem test_addReg :
    regs 0x8014#16 0#4 (withRegs 0#4 0xFF#8 1#4 0x01#8) = some (0x00#8, 0x01#8, 0x202#16) ∧
    regs 0x8014#16 0#4 (withRegs 0#4 0x80#8 1#4 0x7F#8) = some (0xFF#8, 0x00#8, 0x202#16) := by decide

/-- A18, A20, A21: VF as destination and as operand. -/
theorem test_addReg_vf :
    regs 0x8F14#16 regF (withRegs regF 0xFF#8 1#4 0x01#8) = some (0x00#8, 0x00#8, 0x202#16) ∧
    regs 0x80F4#16 0#4 (withRegs 0#4 0x01#8 regF 0x02#8) = some (0x03#8, 0x00#8, 0x202#16) ∧
    regs 0x8FF4#16 regF (State.reset.setV regF 0x90#8) = some (0x20#8, 0x20#8, 0x202#16) := by decide

/-- A24: with `VF_WRITE_LAST` true the flag of A18 lands last. -/
theorem test_vfWriteLast :
    ((withRegs regF 0xFF#8 1#4 0x01#8).setResultAndFlag true regF 0x00#8 (carryOut 0xFF#8 0x01#8)).getV regF = 0x01#8 := by
  decide

/-- S3, A9: borrow and equality. -/
theorem test_sub :
    regs 0x8015#16 0#4 (withRegs 0#4 0x01#8 1#4 0x02#8) = some (0xFF#8, 0x00#8, 0x202#16) ∧
    regs 0x8015#16 0#4 (withRegs 0#4 0x05#8 1#4 0x05#8) = some (0x00#8, 0x01#8, 0x202#16) := by decide

/-- A22. -/
theorem test_sub_vf : regs 0x8FF5#16 regF (State.reset.setV regF 0x90#8) = some (0x00#8, 0x00#8, 0x202#16) := by
  decide

/-- S4, A14: the bit shifted out; the field y is ignored. -/
theorem test_shr :
    regs 0x8206#16 2#4 (State.reset.setV 2#4 0x03#8) = some (0x01#8, 0x01#8, 0x202#16) ∧
    regs 0x8236#16 2#4 (withRegs 2#4 0x80#8 3#4 0xFF#8) = some (0x40#8, 0x00#8, 0x202#16) := by decide

/-- A19. -/
theorem test_shr_vf : regs 0x8F06#16 regF (State.reset.setV regF 0x02#8) = some (0x01#8, 0x01#8, 0x202#16) := by
  decide

/-- A12, A13. -/
theorem test_subn :
    regs 0x8017#16 0#4 (withRegs 0#4 0x01#8 1#4 0x02#8) = some (0x01#8, 0x01#8, 0x202#16) ∧
    regs 0x8017#16 0#4 (withRegs 0#4 0x02#8 1#4 0x01#8) = some (0xFF#8, 0x00#8, 0x202#16) := by decide

/-- A16, A17. -/
theorem test_shl :
    regs 0x820E#16 2#4 (State.reset.setV 2#4 0x81#8) = some (0x02#8, 0x01#8, 0x202#16) ∧
    regs 0x820E#16 2#4 (State.reset.setV 2#4 0x40#8) = some (0x80#8, 0x00#8, 0x202#16) := by decide

/-- A23. -/
theorem test_shl_vf : regs 0x8FFE#16 regF (State.reset.setV regF 0x81#8) = some (0x02#8, 0x02#8, 0x202#16) := by
  decide

/-! ## Display -/

/-- G1, G12: CLS clears, and signals Beep when ST > 0. -/
theorem test_cls :
    (after 0x00E0#16 (State.reset.setFb (Display.blank.setCell 3 7 true) |>.setSt 5#8)).map
      (fun t => (litInRow t.fb 3, t.result)) = some ([], .ok .beep) := by decide

/-- S6 and conflict C10: a row that wraps around, with and without a collision at (62,0). G2: both axes wrap. -/
theorem test_drw_wrap :
    drawn 0xD011#16 0 1 ((withBytes 0x300 [0xFF#8] (withRegs 0#4 60#8 1#4 0#8)).setI 0x300#16) =
      some ([0, 1, 2, 3, 60, 61, 62, 63], [], 0#8) ∧
    drawn 0xD011#16 0 1 (((withBytes 0x300 [0xFF#8] (withRegs 0#4 60#8 1#4 0#8)).setI 0x300#16).setFb
      (Display.blank.setCell 0 62 true)) = some ([0, 1, 2, 3, 60, 61, 63], [], 1#8) ∧
    drawn 0xD012#16 31 0 ((withBytes 0x300 [0x81#8, 0xFF#8] (withRegs 0#4 255#8 1#4 31#8)).setI 0x300#16) =
      some ([6, 63], [0, 1, 2, 3, 4, 5, 6, 63], 0#8) := by decide

/-- G6, G11: no rows, at an index out of range, and Draw, not Beep. G8, G9: the fifteenth row out of range, and
in range. -/
theorem test_drw_bounds :
    (after 0xD000#16 ((State.reset.setI 0xFFFF#16).setV regF 7#8 |>.setSt 5#8)).map
      (fun t => (t.getV regF, t.pc, t.result)) = some (0#8, 0x202#16, .ok (.draw Display.blank)) ∧
    faultOnly 0xD00F#16 (State.reset.setI 4082#16) =
      some (some ⟨.memoryOutOfBounds, some 0x200#16, some 0xD00F#16, some 4096⟩, true) ∧
    (after 0xD00F#16 (State.reset.setI 4081#16)).map (·.fault) = some none := by decide

/-! ## Keypad -/

/-- K1. -/
theorem test_skp :
    pcAndResult 0xE59E#16 (setKey 10#4 true (State.reset.setV 5#4 0x0A#8)) = some (0x204#16, .ok .nothing) ∧
    pcAndResult 0xE59E#16 (State.reset.setV 5#4 0x0A#8) = some (0x202#16, .ok .nothing) := by decide

/-- K4. -/
theorem test_skp_index :
    faultOnly 0xE09E#16 (State.reset.setV 0#4 0x10#8) =
      some (some ⟨.keyIndexOutOfRange, some 0x200#16, some 0xE09E#16, some 16⟩, true) := by decide

/-- K1, K3. -/
theorem test_sknp :
    pcAndResult 0xE5A1#16 (setKey 10#4 true (State.reset.setV 5#4 0x0A#8)) = some (0x202#16, .ok .nothing) ∧
    pcAndResult 0xE0A1#16 (State.reset.setV 0#4 0x0F#8) = some (0x204#16, .ok .nothing) := by decide

/-- K5. -/
theorem test_sknp_index :
    (after 0xE0A1#16 (State.reset.setV 0#4 0xFF#8)).map (·.fault) =
      some (some ⟨.keyIndexOutOfRange, some 0x200#16, some 0xE0A1#16, some 255⟩) := by decide

/-- K6, its first tick: a key already held does not end the wait. -/
theorem test_ldVxK_enter :
    (after 0xF30A#16 (setKey 7#4 true State.reset)).map
      (fun t => (t.waiting, t.waitX, t.keyPrev == t.key, t.pc)) = some (true, 3#4, true, 0x200#16) := by decide

/-- K6, its last tick: keys 2 and 7 are new, and the lower one is taken; K8: VF may be the destination. -/
theorem test_wait_completes :
    (after 0xF30A#16 (setKey 2#4 true (setKey 7#4 true { State.reset with waiting := true, waitX := 3#4 }))).map
      (fun t => (t.getV 3#4, t.pc, t.waiting)) = some (2#8, 0x202#16, false) ∧
    (after 0xFF0A#16 (setKey 9#4 true { State.reset with waiting := true, waitX := 0xF#4 })).map
      (fun t => (t.getV regF, t.pc)) = some (9#8, 0x202#16) := by decide

/-- The model's own value `highest` of KEY_PICK (log entry 9) picks the other end of the list. -/
theorem test_pickKey : pickKey .lowest [2, 7] = some 2 ∧ pickKey .highest [2, 7] = some 7 := by decide

/-- R192: under the policy `mask` the low four bits select the key. -/
theorem test_keyIndex_mask : keyIndex .mask 0x12#8 = some 2 ∧ keyIndex .fault 0x12#8 = none := by decide

/-! ## F family -/

/-- M1. -/
theorem test_ldVxDt : regs 0xF107#16 1#4 (State.reset.setDt 0x3C#8) = some (0x3C#8, 0x00#8, 0x202#16) := by decide

/-- M2. -/
theorem test_ldDtVx : (after 0xF115#16 (State.reset.setV 1#4 0xFF#8)).map (·.dt) = some 0xFF#8 := by decide

/-- M3, M4. -/
theorem test_ldStVx :
    (after 0xF118#16 (State.reset.setV 1#4 0x02#8)).map (fun t => (t.st, t.result)) = some (2#8, .ok .beep) ∧
    (after 0xF018#16 (State.reset.setSt 5#8)).map (fun t => (t.st, t.result)) = some (0#8, .ok .nothing) := by
  decide

/-- M5, M6. -/
theorem test_addIVx :
    (after 0xF01E#16 ((withRegs 0#4 1#8 1#4 0#8).setI 0x0FFF#16)).map (fun t => (t.i, t.getV regF)) =
      some (0x1000#16, 0x55#8) ∧
    (after 0xF01E#16 ((withRegs 0#4 2#8 1#4 0#8).setI 0xFFFF#16)).map (·.i) = some 0x0001#16 := by decide

/-- M7, M8. -/
theorem test_ldFVx :
    (after 0xF029#16 (State.reset.setV 0#4 0x0A#8)).map (·.i) = some 0x0032#16 ∧
    (after 0xF029#16 (State.reset.setV 0#4 0xFF#8)).map (·.i) = some 0x04FB#16 := by decide

/-- M9. -/
theorem test_ldBVx :
    (after 0xF433#16 ((State.reset.setV 4#4 0x9C#8).setI 0x300#16)).map (fun t => t.mem.readBytes 0x300 3) =
      some [1#8, 5#8, 6#8] := by decide

/-- M11: nothing is written when the last digit is out of range. -/
theorem test_ldBVx_bounds :
    faultOnly 0xF033#16 ((State.reset.setV 0#4 0xFF#8).setI 4094#16) =
      some (some ⟨.memoryOutOfBounds, some 0x200#16, some 0xF033#16, some 4096⟩, true) := by decide

/-- M13. -/
theorem test_ldMemVx :
    (after 0xF255#16 (((withRegs 0#4 0x11#8 1#4 0x22#8).setV 2#4 0x33#8).setI 0x400#16)).map
      (fun t => (t.mem.readBytes 0x400 4, t.i)) = some ([0x11#8, 0x22#8, 0x33#8, 0x00#8], 0x400#16) := by decide

/-- M15. -/
theorem test_ldMemVx_bounds :
    faultOnly 0xF155#16 (State.reset.setI 4095#16) =
      some (some ⟨.memoryOutOfBounds, some 0x200#16, some 0xF155#16, some 4096⟩, true) := by decide

/-- M16: the first 16 bytes of the font. -/
theorem test_ldVxMem :
    (after 0xFF65#16 State.reset).map (·.v.toList) =
      some ([0xF0#8, 0x90#8, 0x90#8, 0x90#8, 0xF0#8, 0x20#8, 0x60#8, 0x20#8] ++
        [0x20#8, 0x70#8, 0xF0#8, 0x10#8, 0xF0#8, 0x80#8, 0xF0#8, 0xF0#8]) := by decide

/-- M17. -/
theorem test_ldVxMem_bounds :
    (after 0xF065#16 (State.reset.setI 0xFFFF#16)).map (·.fault) =
      some (some ⟨.memoryOutOfBounds, some 0x200#16, some 0xF065#16, some 0xFFFF⟩) := by decide

/-! ## Host events -/

/-- T1, T2: the floor. -/
theorem test_advanceTimers :
    (advanceTimers (State.reset.setDt 1#8)).dt = 0#8 ∧ (advanceTimers State.reset).dt = 0#8 ∧
    (advanceTimers (State.reset.setSt 5#8)).st = 4#8 := by decide

/-- R1. -/
theorem test_resetLoad :
    (resetLoad [0x12#8, 0x00#8] (State.reset.setPc 0x300#16)).mem.readBytes 0x200 3 = [0x12#8, 0x00#8, 0x00#8] ∧
    (resetLoad [0x12#8, 0x00#8] (State.reset.setPc 0x300#16)).pc = 0x200#16 ∧
    (resetLoad [0x12#8, 0x00#8] (State.reset.setPc 0x300#16)).mem.read 0 = 0xF0#8 := by decide

/-- D18: the order inside one cycle, and reset over all others. -/
theorem test_cycleEvents :
    cycleEvents none (some (3#4, true)) true (some 0x5A#8) =
      [.setKey 3#4 true, .advanceTimers, .tick 0x5A#8] ∧
    cycleEvents (some []) (some (3#4, true)) true (some 0x5A#8) = [.resetLoad []] := by decide

/-- D1: from reset with nothing loaded the first tick reports the word 0. -/
theorem test_step_empty :
    (match step State.reset with | .next t => t.fault | _ => none) =
      some ⟨.invalidOpcode, some 0x200#16, some 0x0000#16, none⟩ := by rfl

/-- D11: a latched fault is returned again. -/
theorem test_tick_latched :
    tick { State.reset with fault := some ⟨.stackUnderflow, some 0x200#16, some 0x00EE#16, none⟩ } =
      .next { State.reset with
        fault := some ⟨.stackUnderflow, some 0x200#16, some 0x00EE#16, none⟩
        result := .fault ⟨.stackUnderflow, some 0x200#16, some 0x00EE#16, none⟩ } := rfl

/-- The ports after the reset and after a fault (R236, R240, R250). -/
theorem test_ports :
    portResultOk State.reset = true ∧ portDraw State.reset = false ∧ portBeep State.reset = false ∧
    (portFaultKind (State.reset.raiseIn .invalidOpcode 0xFFFF#16 none)).map (·.code) = some 1 ∧
    portFaultWord (State.reset.raiseIn .invalidOpcode 0xFFFF#16 none) = some 0xFFFF#16 := by decide

/-- `withFetchWord` places the word where the next step fetches. -/
theorem test_withFetchWord :
    fetch (State.reset.withFetchWord 16 0x6A7F) = .ok 0x6A7F#16 ∧
    decodeTableWord 16 0x6A7F = some (.ldImm 0xA#4 0x7F#8) := ⟨rfl, rfl⟩

/-! ## Witnesses: for every obligation with hypotheses, a state and operands that meet all of them -/

/-- The reset state with the jump to itself of F2 loaded. -/
def jumping : State := withBytes 0x200 [0x12#8, 0x00#8]

/-- The reset state waiting for a key at an F30A, as K6 enters it with key 7 held. -/
def waitingState : State :=
  withBytes 0x200 [0xF3#8, 0x0A#8]
    { State.reset with
      waiting := true, waitX := 3#4, key := State.reset.key.set 7 true, keyPrev := State.reset.keyPrev.set 7 true }

/-- The record of S8. -/
def underflow : FaultRecord := ⟨.stackUnderflow, some 0x200#16, some 0x00EE#16, none⟩

/-- The state after the fault of S8. -/
def faulted : State := { withBytes 0x200 [0x00#8, 0xEE#8] with fault := some underflow, result := .fault underflow }

/-- EncodeOfDecodeIsIdentity: a word with the ignored field of SHR set decodes. -/
theorem witness_EncodeOfDecodeIsIdentity : ∃ i, decodeWord 0x8236#16 = .ok i := ⟨_, rfl⟩

/-- DecoderAgreesWithOpcodeMap: a word that a row covers, and one that none covers. -/
theorem witness_DecoderAgreesWithOpcodeMap :
    (∃ row ∈ opcodeRows, row.covers 0xF1A3#16 ∨ row.covers 0xF155#16) ∧
    (∀ row ∈ opcodeRows, ¬ row.covers 0xF1FB#16) := by decide

/-- FetchIsBigEndianAndBounded: the boundary values 4094, 4095 and 4096 of PC. -/
theorem witness_FetchIsBigEndianAndBounded :
    (State.reset.setPc 4094#16).pc.toNat ≤ 4094 ∧ (State.reset.setPc 4095#16).pc.toNat = 4095 ∧
    4096 ≤ (State.reset.setPc 4096#16).pc.toNat := by decide

/-- StepRunsDecodedInstruction, with no event listed and with a tick listed. -/
theorem witness_StepRunsDecodedInstruction :
    jumping.fault = none ∧ jumping.waiting = false ∧ jumping.pc.toNat ≤ 4094 ∧
    decode [jumping.mem.read jumping.pc.toNat, jumping.mem.read (jumping.pc.toNat + 1)] = .ok (.jp 0x200#12, []) ∧
    jumping.pending = [] ∧ ({ jumping with pending := [.tick 7#8] } : State).pending = .tick 7#8 :: [] :=
  ⟨rfl, rfl, by decide, rfl, rfl, rfl⟩

/-- StepTakesTheNextHostEvent: one state for each event. -/
theorem witness_StepTakesTheNextHostEvent :
    ({ State.reset with pending := [.advanceTimers] } : State).pending = [.advanceTimers] ∧
    ({ State.reset with pending := [.setKey 15#4 true] } : State).pending = [.setKey 15#4 true] ∧
    ({ State.reset with pending := [.resetLoad []] } : State).pending = [.resetLoad []] ∧
    ({ State.reset with pending := [.tick 0#8] } : State).pending = [.tick 0#8] := ⟨rfl, rfl, rfl, rfl⟩

/-- PcFollowsItsClass, and SignalOfEveryInstruction for an instruction that is no draw. -/
theorem witness_PcFollowsItsClass :
    ∃ t, State.reset.fault = none ∧ exec (.jp 0x234#12) State.reset = .next t ∧ t.fault = none :=
  ⟨_, rfl, rfl, rfl⟩

/-- SignalOfEveryInstruction for a draw. -/
theorem witness_SignalOfEveryInstruction :
    ∃ t, State.reset.fault = none ∧ exec (.drw 0#4 0#4 0#4) State.reset = .next t ∧ t.fault = none :=
  ⟨_, rfl, rfl, rfl⟩

/-- EventsWriteOnlyWhatTheTableLists: a timer event changes DT, a tick of 6A7F changes V[10], a tick of a RET on an
empty stack changes the latch, an idle wait tick the sample, and a completing one V[WAIT_X]. -/
theorem witness_EventsWriteOnlyWhatTheTableLists :
    (∃ t, step { State.reset with dt := 5#8, pending := [.advanceTimers] } = .next t ∧
      ¬ Part.same .dt { State.reset with dt := 5#8, pending := [.advanceTimers] } t) ∧
    (∃ t, step (withBytes 0x200 [0x6A#8, 0x7F#8]) = .next t ∧
      ¬ Part.same (.v 0xA#4) (withBytes 0x200 [0x6A#8, 0x7F#8]) t) ∧
    (∃ t, step (withBytes 0x200 [0x00#8, 0xEE#8]) = .next t ∧
      ¬ Part.same .fault (withBytes 0x200 [0x00#8, 0xEE#8]) t) ∧
    (∃ t, step (setKey 7#4 false waitingState) = .next t ∧
      ¬ Part.same .keyPrev (setKey 7#4 false waitingState) t) ∧
    (∃ t, step (setKey 15#4 true waitingState) = .next t ∧
      ¬ Part.same (.v 3#4) (setKey 15#4 true waitingState) t) := by
  refine ⟨⟨_, rfl, fun h => ?_⟩, ⟨_, rfl, fun h => ?_⟩, ⟨_, rfl, fun h => ?_⟩, ⟨_, rfl, fun h => ?_⟩,
    ⟨_, rfl, fun h => ?_⟩⟩
  · exact absurd h (show ¬ (4#8 : Byte) = 5#8 by decide)
  · exact absurd h (show ¬ (0x7F#8 : Byte) = 0#8 by decide)
  · exact absurd h (show ¬ some underflow = none by decide)
  · exact absurd (congrArg (fun k => k[7]) h) (show ¬ false = true by decide)
  · exact absurd h (show ¬ (15#8 : Byte) = 0#8 by decide)

/-- OnlyRndReadsTheRandomByte: a tick of a jump. -/
theorem witness_OnlyRndReadsTheRandomByte :
    (∀ x kk, tickInstr jumping ≠ some (.rnd x kk)) ∧ ∃ t, tick jumping = .next t := by
  refine ⟨fun x kk h => ?_, _, rfl⟩
  have h' : tickInstr jumping = some (.jp 0x200#12) := rfl
  rw [h'] at h
  cases h

/-- RetPopsTheReturnAddress: depths 0, 1 and 16. -/
theorem witness_RetPopsTheReturnAddress :
    State.reset.sp.val = 0 ∧ ({ State.reset with sp := 1 } : State).sp.val = 0 + 1 ∧
    ({ State.reset with sp := 16 } : State).sp.val = 15 + 1 ∧ 0 < params.stackCapacity ∧
    15 < params.stackCapacity := by decide

/-- CallPushesTheReturnAddress and RetAfterCallComesBack: depths 0, 15 and 16. -/
theorem witness_CallPushesTheReturnAddress :
    State.reset.sp.val = 0 ∧ ({ State.reset with sp := 15 } : State).sp.val = 15 ∧ 15 < params.stackCapacity ∧
    ({ State.reset with sp := 16 } : State).sp.val = params.stackCapacity := by decide

/-- RetAfterCallComesBack: the deepest call that succeeds. -/
theorem witness_RetAfterCallComesBack : ({ State.reset with sp := 15 } : State).sp.val < params.stackCapacity := by
  decide

/-- AddRegSetsCarry, SubtractionsSetNotBorrow, ShiftsSetTheBitShiftedOut: both ends of the range of x. -/
theorem witness_destination_not_vf : (0x0#4 : Reg) ≠ regF ∧ (0xE#4 : Reg) ≠ regF := by decide

/-- DrwXorsTheSprite: no rows at any index, and the last row at 4095. -/
theorem witness_DrwXorsTheSprite :
    ((0#4 : Nibble).toNat = 0 ∨ (State.reset.setI 0xFFFF#16).i.toNat + (0#4 : Nibble).toNat - 1 ≤ 4095) ∧
    ((15#4 : Nibble).toNat = 0 ∨ (State.reset.setI 4081#16).i.toNat + (15#4 : Nibble).toNat - 1 ≤ 4095) := by decide

/-- DrwXorsTheSprite, its second clause: a cell that the one row of S6 does not meet. -/
theorem witness_DrwXorsTheSprite_other_cell :
    ∀ r c, r < 1 → c < 8 → ¬ ((1 : Fin 32).val = (0 + r) % 32 ∧ (0 : Fin 64).val = (60 + c) % 64) := by
  intro r c hr hc h
  simp at h
  omega

/-- DrawingTwiceRestoresTheGrid: a sprite of 15 rows. -/
theorem witness_DrawingTwiceRestoresTheGrid : (List.replicate 15 0xFF#8).length ≤ 15 := by decide

/-- KeySkipsFollowTheKey: the indices 0 and 15. -/
theorem witness_KeySkipsFollowTheKey :
    (State.reset.getV 5#4).toNat = (0 : Fin 16).val ∧
    ((State.reset.setV 5#4 15#8).getV 5#4).toNat = (15 : Fin 16).val := by decide

/-- WaitTickEndsOnANewKey: a new key at each end of the keypad, and no new key while one is held. -/
theorem witness_WaitTickEndsOnANewKey :
    waitingState.fault = none ∧ waitingState.waiting = true ∧
    (∀ k : Fin 16, ¬ (waitingState.key[k.val]'k.isLt = true ∧ waitingState.keyPrev[k.val]'k.isLt = false)) ∧
    (∀ k : Fin 16, k = 0 ∨ k = 15 →
      (setKey (BitVec.ofNat 4 k.val) true waitingState).key[k.val]'k.isLt = true ∧
      (setKey (BitVec.ofNat 4 k.val) true waitingState).keyPrev[k.val]'k.isLt = false ∧
      ∀ j : Fin 16, j.val < k.val →
        ¬ ((setKey (BitVec.ofNat 4 k.val) true waitingState).key[j.val]'j.isLt = true ∧
          (setKey (BitVec.ofNat 4 k.val) true waitingState).keyPrev[j.val]'j.isLt = false)) := by decide

/-- TimerLoadsWriteTheTimer: a value above 0, and the value 0. -/
theorem witness_TimerLoadsWriteTheTimer :
    0 < ((State.reset.setV 1#4 1#8).getV 1#4).toNat ∧ (State.reset.getV 1#4).toNat = 0 := by decide

/-- RndMasksTheRandomByte: a mask with a bit 0. -/
theorem witness_RndMasksTheRandomByte : (0x0F#8).getLsbD 7 = false := by decide

/-- BcdStoresThreeDigits: the last place that fits. -/
theorem witness_BcdStoresThreeDigits :
    (State.reset.setI 4093#16).memoryCanonical ∧ (State.reset.setI 4093#16).i.toNat + 2 ≤ 4095 := ⟨rfl, by decide⟩

/-- StoreWritesRegistersUpToX, LoadReadsRegistersUpToX, LoadAfterStoreRestores: all registers at the last place
that fits, and one register at 4095. -/
theorem witness_StoreWritesRegistersUpToX :
    (State.reset.setI 4080#16).memoryCanonical ∧ (State.reset.setI 4080#16).i.toNat + (0xF#4 : Reg).toNat ≤ 4095 ∧
    (State.reset.setI 4095#16).i.toNat + (0x0#4 : Reg).toNat ≤ 4095 := ⟨rfl, by decide, by decide⟩

/-- FetchSeesStoredBytes: M18, where the store lands on the next instruction. -/
theorem witness_FetchSeesStoredBytes :
    (State.reset.setI 0x202#16).memoryCanonical ∧ (State.reset.setI 0x202#16).i.toNat + (1#4 : Reg).toNat ≤ 4095 ∧
    (0#4 : Reg) < 1#4 ∧
    ((State.reset.setI 0x202#16).pc + 2#16).toNat = (State.reset.setI 0x202#16).i.toNat + (0#4 : Reg).toNat :=
  ⟨rfl, by decide, by decide, by decide⟩

/-- The run of the next witness: one timer event, one key event, from DT = 5. -/
def countingRun : Nat → State
  | 0 => { State.reset with dt := 5#8, pending := [.advanceTimers, .setKey 3#4 true] }
  | 1 => { State.reset with dt := 4#8, pending := [.setKey 3#4 true] }
  | _ => { State.reset with dt := 4#8, key := State.reset.key.set 3 true }

/-- DelayTimerCountsTimerEvents: two steps, one of them a timer event. -/
theorem witness_DelayTimerCountsTimerEvents :
    (∀ j < 2, step (countingRun j) = .next (countingRun (j + 1))) ∧
    (∀ j < 2, (∀ p, nextEvent (countingRun j) ≠ .resetLoad p) ∧
      ∀ x, executed (countingRun j) ≠ some (.ldDtVx x)) := by
  constructor
  · intro j hj
    interval_cases j <;> rfl
  · intro j hj
    interval_cases j <;> exact ⟨fun p h => (by cases h), fun x h => (by cases h)⟩

/-- ResetLoadsFontPcAndProgram, ResetClearsTheRest: the shortest and the longest program that fits. -/
theorem witness_ResetLoadsFontPcAndProgram :
    ([] : List Byte).length ≤ 3584 ∧ (List.replicate 3584 0x12#8).length ≤ 3584 := by
  simp only [List.length_replicate, List.length_nil]
  exact ⟨Nat.zero_le _, le_refl _⟩

/-- TooLargeProgramIsRefused: one byte too many. -/
theorem witness_TooLargeProgramIsRefused : 3584 < (List.replicate 3585 0x12#8).length := by
  rw [List.length_replicate]
  exact Nat.lt_succ_self _

/-- ExecuteFaultsExactlyAsListed: a state with an instruction that faults and one that does not. -/
theorem witness_ExecuteFaultsExactlyAsListed :
    State.reset.fault = none ∧ executeFault State.reset .ret = some (.stackUnderflow, none) ∧
    executeFault State.reset .cls = none ∧
    executeFault (State.reset.setI 4082#16) (.drw 0#4 0#4 15#4) = some (.memoryOutOfBounds, some 4096) ∧
    executeFault (State.reset.setI 4081#16) (.drw 0#4 0#4 15#4) = none := by decide

/-- InvalidWordIsReported: the word FFFF of S9. -/
theorem witness_InvalidWordIsReported :
    (withBytes 0x200 [0xFF#8, 0xFF#8]).fault = none ∧ (withBytes 0x200 [0xFF#8, 0xFF#8]).waiting = false ∧
    fetch (withBytes 0x200 [0xFF#8, 0xFF#8]) = .ok 0xFFFF#16 ∧ (∀ row ∈ opcodeRows, ¬ row.covers 0xFFFF#16) :=
  ⟨rfl, rfl, rfl, by decide⟩

/-- FetchOutOfRangeIsReported: 4095 and 4096. -/
theorem witness_FetchOutOfRangeIsReported :
    State.reset.fault = none ∧ State.reset.waiting = false ∧ 4095 ≤ (State.reset.setPc 4095#16).pc.toNat ∧
    4095 ≤ (State.reset.setPc 4096#16).pc.toNat := by decide

/-- FaultsArePrecise: the tick of S8. -/
theorem witness_FaultsArePrecise :
    ∃ t, (withBytes 0x200 [0x00#8, 0xEE#8]).fault = none ∧ tick (withBytes 0x200 [0x00#8, 0xEE#8]) = .next t ∧
      t.fault = some underflow := ⟨_, rfl, rfl, rfl⟩

/-- LatchHoldsUntilReset: the state after S8, and a program that fits. -/
theorem witness_LatchHoldsUntilReset :
    faulted.fault = some underflow ∧ ([0x12#8, 0x00#8] : List Byte).length ≤ 3584 := ⟨rfl, by decide⟩

/-- ParkedCoreStays: the jump to itself of F2. -/
theorem witness_ParkedCoreStays : jumping.parked := ⟨rfl, rfl, 0x200#12, rfl, rfl⟩

/-- StepKeepsMemoryCanonical: a state with bytes stored, and its step. -/
theorem witness_StepKeepsMemoryCanonical : jumping.memoryCanonical ∧ ∃ t, step jumping = .next t := ⟨rfl, _, rfl⟩

/-- StepKeepsWaitConsistent and StepKeepsAddressesBounded: a state in the wait. -/
theorem witness_StepKeepsWaitConsistent :
    waitingState.waitConsistent ∧ waitingState.waiting = true ∧ waitingState.addressesBounded ∧
    ∃ t, step waitingState = .next t := by
  refine ⟨fun _ => ⟨rfl, rfl⟩, rfl, ⟨by decide, fun k hk => ?_⟩, _, rfl⟩
  exact absurd hk (Nat.not_lt_zero _)

/-- StepKeepsAddressesBounded: PC and the top of the stack at their bounds. -/
theorem witness_StepKeepsAddressesBounded :
    State.waitConsistent { State.reset with pc := 0x10FE#16, sp := 1, stack := Vector.replicate params.stackCapacity 4096#16 } ∧
    State.addressesBounded { State.reset with pc := 0x10FE#16, sp := 1, stack := Vector.replicate params.stackCapacity 4096#16 } := by
  refine ⟨fun h => (by cases h), by decide, fun k _ => ?_⟩
  revert k
  decide

/-- StepKeepsLatchReproducible: the state after S8, whose latch is set. -/
theorem witness_StepKeepsLatchReproducible :
    faulted.fault = some underflow ∧ faulted.latchReproducible ∧ ∃ t, step faulted = .next t := by
  refine ⟨rfl, fun r hr _ => ?_, _, rfl⟩
  obtain rfl : underflow = r := Option.some.inj hr
  exact ⟨rfl, rfl⟩

end Sys2Proof.Tests
end

/-! # Proofs: the frame of every instruction, tick and step (10_state.md R33), and the bounds of R23 -/

namespace Sys2Proof.Machine

/-! ## The rules of the frame relation -/

section Frame

variable {s t u : State} {C D : Part → Prop}

theorem Part.same_trans {p : Part} (h₁ : p.same s t) (h₂ : p.same t u) : p.same s u := by
  cases p with
  | host => exact ⟨h₂.1.trans h₁.1, h₂.2.1.trans h₁.2.1, h₂.2.2.trans h₁.2.2⟩
  | _ => exact Eq.trans h₂ h₁

theorem Unchanged.mono (h : Unchanged C s t) (hCD : ∀ p, C p → D p) : Unchanged D s t :=
  fun p hp => h p (mt (hCD p) hp)

/-- The frames of two updates in a row: what neither changes is unchanged. -/
theorem Unchanged.comp (h₁ : Unchanged C s t) (h₂ : Unchanged D t u) :
    Unchanged (fun p => C p ∨ D p) s u :=
  fun p hp => Part.same_trans (h₁ p (mt .inl hp)) (h₂ p (mt .inr hp))

end Frame

/-! ## The frame of each update of the state -/

section Updates

variable (s : State)

theorem unchanged_setV (x : Reg) (b : Byte) : Unchanged (· = .v x) s (s.setV x b) := by
  intro p hp
  cases p <;> simp_all [Part.same]

theorem unchanged_setResultAndFlag (last : Bool) (x : Reg) (res : Byte) (flag : Bool) :
    Unchanged (fun p => p = .v x ∨ p = .v regF) s (s.setResultAndFlag last x res flag) := by
  cases last with
  | true => exact (unchanged_setV s x _).comp (unchanged_setV _ regF _)
  | false => exact ((unchanged_setV s regF _).comp (unchanged_setV _ x _)).mono fun _ => Or.symm

theorem unchanged_loadV (x : Reg) (base : Nat) :
    Unchanged (fun p => ∃ r : Reg, r ≤ x ∧ p = .v r) s (s.loadV x base) := by
  intro p hp
  cases p with
  | v r => exact (getV_loadV s x r base).trans (if_neg fun hr => hp ⟨r, hr, rfl⟩)
  | _ => simp [Part.same]

theorem unchanged_setI (w : Word) : Unchanged (· = .i) s (s.setI w) := by
  intro p hp
  cases p <;> simp_all [Part.same]

theorem unchanged_setPc (w : Word) : Unchanged (· = .pc) s (s.setPc w) := by
  intro p hp
  cases p <;> simp_all [Part.same]

theorem unchanged_setDt (b : Byte) : Unchanged (· = .dt) s (s.setDt b) := by
  intro p hp
  cases p <;> simp_all [Part.same]

theorem unchanged_setSt (b : Byte) : Unchanged (· = .st) s (s.setSt b) := by
  intro p hp
  cases p <;> simp_all [Part.same]

theorem unchanged_setFb (d : Display) : Unchanged (fun p => ∃ r c, p = .cell r c) s (s.setFb d) := by
  intro p hp
  cases p <;> simp_all [Part.same]

/-- Bytes stored from an address on change no byte outside their own addresses. -/
theorem unchanged_writeBytes (a : Nat) (bs : List Byte) :
    Unchanged (fun p => ∃ k, k < bs.length ∧ p = .mem (a + k)) s (s.setMem (s.mem.writeBytes a bs)) := by
  intro p hp
  cases p with
  | mem a' =>
    refine Memory.read_writeBytes_outside ?_
    by_contra hin
    exact hp ⟨a' - a, by omega, by rw [Nat.add_sub_cancel' (by omega)]⟩
  | _ => simp [Part.same]

theorem unchanged_advance : Unchanged (· = .pc) s s.advance := unchanged_setPc s _

theorem unchanged_skipIf (cond : Bool) : Unchanged (· = .pc) s (s.skipIf cond) := unchanged_setPc s _

theorem unchanged_beginWait (x : Reg) :
    Unchanged (fun p => p = .waiting ∨ p = .waitX ∨ p = .keyPrev) s (s.beginWait x) := by
  intro p hp
  cases p <;> simp_all [Part.same]

theorem unchanged_endWait : Unchanged (· = .waiting) s s.endWait := by
  intro p hp
  cases p <;> simp_all [Part.same]

theorem unchanged_sampleKeys : Unchanged (· = .keyPrev) s s.sampleKeys := by
  intro p hp
  cases p <;> simp_all [Part.same]

theorem unchanged_with_sp (d : Fin (params.stackCapacity + 1)) : Unchanged (· = .sp) s { s with sp := d } := by
  intro p hp
  cases p <;> simp_all [Part.same, State.getV]

theorem unchanged_with_stack_set (k : Nat) (w : Word) (hk : k < params.stackCapacity) :
    Unchanged (fun p => ∃ j : Fin params.stackCapacity, p = .slot j ∧ j.val = k) s
      { s with stack := s.stack.set k w hk } := by
  intro p hp
  cases p with
  | slot j => exact Vector.getElem_set_ne hk j.isLt fun e => hp ⟨j, rfl, e.symm⟩
  | _ => simp [Part.same, State.getV]

theorem unchanged_with_result (r : TickResult) : Unchanged (· = .result) s { s with result := r } := by
  intro p hp
  cases p <;> simp_all [Part.same, State.getV]

theorem unchanged_complete : Unchanged (· = .result) s s.complete := unchanged_with_result s _

theorem unchanged_completeDraw : Unchanged (· = .result) s s.completeDraw := unchanged_with_result s _

theorem unchanged_with_host (b : Byte) (c : Nat) (es : List HostEvent) :
    Unchanged (· = .host) s { s with rnd := b, rndCount := c, pending := es } := by
  intro p hp
  cases p <;> simp_all [Part.same, State.getV]

theorem unchanged_advanceTimers : Unchanged (fun p => p = .dt ∨ p = .st) s (advanceTimers s) :=
  (unchanged_setDt s (countDown s.dt)).comp (unchanged_setSt _ (countDown s.st))

theorem unchanged_setKey (index : BitVec 4) (pressed : Bool) :
    Unchanged (fun p => ∃ k : Fin 16, p = .key k ∧ k.val = index.toNat) s (setKey index pressed s) := by
  intro p hp
  cases p with
  | key k => exact Vector.getElem_set_ne index.isLt k.isLt fun e => hp ⟨k, rfl, e.symm⟩
  | _ => simp [Part.same, State.getV, setKey]

end Updates

/-! ## What an instruction can do -/

/-- The two arms of CALL (R133). -/
theorem execCall_cases (nnn : Addr) (s : State) :
    (s.sp.val = params.stackCapacity ∧
      execCall nnn s = .next (s.raiseIn .stackOverflow (encode (.call nnn)) none)) ∨
    (∃ (h : s.sp.val < params.stackCapacity) (d : Fin (params.stackCapacity + 1)), d.val = s.sp.val + 1 ∧
      execCall nnn s = .next
        (State.setPc { s with stack := s.stack.set s.sp.val (s.pc + 2#16) h, sp := d } (absolute nnn)).complete) := by
  rcases push_cases s (s.pc + 2#16) with ⟨hsp, e⟩ | ⟨h, d, hd, e⟩
  · exact .inl ⟨hsp, by simp only [execCall, e]⟩
  · exact .inr ⟨h, d, hd, by simp only [execCall, e]⟩

/-- The two arms of RET (R131). -/
theorem execRet_cases (s : State) :
    (s.sp.val = 0 ∧ execRet s = .next (s.raiseIn .stackUnderflow (encode .ret) none)) ∨
    (∃ (k : Nat) (hk : k < params.stackCapacity) (d : Fin (params.stackCapacity + 1)), s.sp.val = k + 1 ∧
      d.val = k ∧ execRet s = .next (State.setPc { s with sp := d } s.stack[k]).complete) := by
  rcases pop_cases s with ⟨hsp, e⟩ | ⟨k, hk, d, hsp, hd, e⟩
  · exact .inl ⟨hsp, by simp only [execRet, e]⟩
  · exact .inr ⟨k, hk, d, hsp, hd, by simp only [execRet, e]⟩

/-- The key flag that `nextPc` reads. -/
theorem key_getD (s : State) {k : Nat} (h : k < 16) : s.key.toList.getD k false = s.keyDown ⟨k, h⟩ :=
  (List.getD_eq_getElem _ _ (by simpa using h)).trans (Vector.getElem_toList _)

theorem nextPc_skp {x : Reg} (s : State) (h : (s.getV x).toNat < 16) :
    nextPc s (.skp x) = if s.keyDown ⟨(s.getV x).toNat, h⟩ then s.pc.toNat + 4 else s.pc.toNat + 2 := by
  simp only [nextPc, key_getD s h]

theorem nextPc_sknp {x : Reg} (s : State) (h : (s.getV x).toNat < 16) :
    nextPc s (.sknp x) = if !s.keyDown ⟨(s.getV x).toNat, h⟩ then s.pc.toNat + 4 else s.pc.toNat + 2 := by
  simp only [nextPc, key_getD s h]
  cases s.keyDown ⟨(s.getV x).toNat, h⟩ <;> rfl

/-- The two arms of SKP (R190, R192). -/
theorem execSkp_cases (x : Reg) (s : State) :
    (∃ h : (s.getV x).toNat < 16, execSkp x s = .next (s.skipIf (s.keyDown ⟨(s.getV x).toNat, h⟩)).complete) ∨
    (15 < (s.getV x).toNat ∧ execSkp x s =
      .next (s.raiseIn .keyIndexOutOfRange (encode (.skp x)) (some (s.getV x).toNat))) := by
  rcases keyIndex_cases (s.getV x) with ⟨h, e⟩ | ⟨h, e⟩
  · exact .inl ⟨h, by simp only [execSkp, e]⟩
  · exact .inr ⟨h, by simp only [execSkp, e]⟩

/-- The two arms of SKNP (R191, R192). -/
theorem execSknp_cases (x : Reg) (s : State) :
    (∃ h : (s.getV x).toNat < 16, execSknp x s = .next (s.skipIf (!s.keyDown ⟨(s.getV x).toNat, h⟩)).complete) ∨
    (15 < (s.getV x).toNat ∧ execSknp x s =
      .next (s.raiseIn .keyIndexOutOfRange (encode (.sknp x)) (some (s.getV x).toNat))) := by
  rcases keyIndex_cases (s.getV x) with ⟨h, e⟩ | ⟨h, e⟩
  · exact .inl ⟨h, by simp only [execSknp, e]⟩
  · exact .inr ⟨h, by simp only [execSknp, e]⟩

/-- The instruction `i`, started in `s`, ends without fault in `t`: PC is that of its class (R116), and only
the result and what R33 lists for it may differ. -/
structure Completes (i : Instr) (s t : State) : Prop where
  noFault : executeFault s i = none
  pc : t.pc = BitVec.ofNat 16 (nextPc s i)
  frame : Unchanged (fun p => p = .result ∨ Instr.writes s i p) s t

/-- The instruction `i`, started in `s`, faults in its execute phase and `t` is the state after it (R252). -/
def Raises (i : Instr) (s t : State) : Prop :=
  ∃ kind addr, executeFault s i = some (kind, addr) ∧ t = s.raiseIn kind (encode i) addr

section Completes

variable {i : Instr} {s u t : State} {C : Part → Prop}

/-- An instruction that writes its parts and PC, and then the result. -/
theorem Completes.of_result (hno : executeFault s i = none) (hpc : u.pc = BitVec.ofNat 16 (nextPc s i))
    (hu : Unchanged (Instr.writes s i) s u) (ht : Unchanged (· = .result) u t) : Completes i s t where
  noFault := hno
  pc := (ht .pc (by simp)).trans hpc
  frame := (hu.comp ht).mono fun _ => Or.symm

theorem ofNat_toNat_add (w : Word) (k : Nat) : BitVec.ofNat 16 (w.toNat + k) = w + BitVec.ofNat 16 k := by
  simp [BitVec.ofNat_add]

/-- The sequential class of R116, before its result is set. -/
theorem Unchanged.advance (hu : Unchanged C s u) (hw : ∀ p, p = .pc ∨ C p → Instr.writes s i p) :
    Unchanged (Instr.writes s i) s u.advance :=
  (hu.comp (unchanged_advance u)).mono fun p hp => hw p hp.symm

/-- A sequential instruction that draws nothing. -/
theorem Completes.of_advance (hno : executeFault s i = none) (hnext : nextPc s i = s.pc.toNat + 2)
    (hpc : u.pc = s.pc) (hu : Unchanged C s u) (hw : ∀ p, p = .pc ∨ C p → Instr.writes s i p) :
    Completes i s u.advance.complete :=
  .of_result hno (by rw [hnext, ofNat_toNat_add, ← hpc]; rfl) (hu.advance hw) (unchanged_complete _)

/-- The skip class of R116. -/
theorem Completes.of_skip {cond : Bool} (hno : executeFault s i = none)
    (hnext : nextPc s i = if cond then s.pc.toNat + 4 else s.pc.toNat + 2) (hw : ∀ p, p = .pc → Instr.writes s i p) :
    Completes i s (s.skipIf cond).complete := by
  refine .of_result hno ?_ ((unchanged_skipIf s cond).mono hw) (unchanged_complete _)
  rw [hnext]
  cases cond <;> exact (ofNat_toNat_add _ _).symm

/-- The jump class of R116. -/
theorem Completes.of_jump {w : Word} (hno : executeFault s i = none) (hpc : w = BitVec.ofNat 16 (nextPc s i))
    (hu : Unchanged C s u) (hw : ∀ p, p = .pc ∨ C p → Instr.writes s i p) : Completes i s (u.setPc w).complete :=
  .of_result hno hpc ((hu.comp (unchanged_setPc u w)).mono fun p hp => hw p hp.symm) (unchanged_complete _)

end Completes

section Completes

variable {i : Instr} {s : State} {x : Reg}

/-- A sequential instruction whose one effect is a write of `V[x]`. -/
theorem Completes.of_setV {b : Byte} (hno : executeFault s i = none) (hnext : nextPc s i = s.pc.toNat + 2)
    (hw : ∀ p, p = .pc ∨ p = .v x → Instr.writes s i p) : Completes i s (s.setV x b).advance.complete :=
  .of_advance hno hnext rfl (unchanged_setV s x b) hw

/-- A sequential instruction that writes a result to `V[x]` and a flag to `VF` (R170). -/
theorem Completes.of_setResultAndFlag {last flag : Bool} {res : Byte} (hno : executeFault s i = none)
    (hnext : nextPc s i = s.pc.toNat + 2) (hw : ∀ p, p = .pc ∨ p = .v x ∨ p = .v regF → Instr.writes s i p) :
    Completes i s (s.setResultAndFlag last x res flag).advance.complete :=
  .of_advance hno hnext (setResultAndFlag_pc ..) (unchanged_setResultAndFlag s last x res flag) hw

/-- A store of `last + 1` bytes at the index register (R205): it raises, or the bytes are stored. -/
theorem storeAtIndex_ends {bytes : List Byte} {last : Nat} (hlen : bytes.length = last + 1)
    (hf : executeFault s i = if s.i.toNat + last > 4095 then
      some (.memoryOutOfBounds, some (max s.i.toNat 4096)) else none)
    (hnext : nextPc s i = s.pc.toNat + 2)
    (hw : ∀ p, (p = .pc ∨ ∃ k, k < last + 1 ∧ p = .mem (s.i.toNat + k)) → Instr.writes s i p) :
    ∃ t, storeAtIndex i bytes s = .next t ∧ (Completes i s t ∨ Raises i s t) := by
  rcases storeAtIndex_cases i bytes s with ⟨h, e⟩ | ⟨h, e⟩
  · exact ⟨_, e, .inr ⟨_, _, by rw [hf, if_pos (by omega)], rfl⟩⟩
  · have hle : s.i.toNat + bytes.length ≤ 4096 := h.resolve_left fun h0 => by simp [h0] at hlen
    exact ⟨_, e, .inl (.of_advance (by rw [hf, if_neg (by omega)]) hnext rfl
      (unchanged_writeBytes s s.i.toNat bytes) (hlen ▸ hw))⟩

end Completes

/-- What the execute phase does, for every instruction and state: the instruction completes, or it raises the
fault that R261 lists for it. -/
theorem exec_ends (i : Instr) (s : State) : ∃ t, exec i s = .next t ∧ (Completes i s t ∨ Raises i s t) := by
  cases i with
  | cls => exact ⟨_, rfl, .inl (.of_advance rfl rfl rfl (unchanged_setFb s _) fun _ => id)⟩
  | ret =>
    rcases execRet_cases s with ⟨h, e⟩ | ⟨k, hk, d, hsp, -, e⟩
    · exact ⟨_, e, .inr ⟨_, _, if_pos h, rfl⟩⟩
    · have htop : s.stack[k] = BitVec.ofNat 16 (nextPc s .ret) := by simp [nextPc, hsp]
      exact ⟨_, e, .inl (.of_jump (if_neg (by omega)) htop (unchanged_with_sp s d) fun _ => id)⟩
  | jp nnn => exact ⟨_, rfl, .inl (.of_result rfl rfl (unchanged_setPc s _) (unchanged_complete _))⟩
  | call nnn =>
    rcases execCall_cases nnn s with ⟨h, e⟩ | ⟨h, d, -, e⟩
    · exact ⟨_, e, .inr ⟨_, _, if_pos h, rfl⟩⟩
    · exact ⟨_, e, .inl (.of_jump (if_neg h.ne) rfl
        ((unchanged_with_stack_set s _ _ h).comp (unchanged_with_sp _ d)) fun _ => Or.imp_right Or.symm)⟩
  | seImm x kk => exact ⟨_, rfl, .inl (.of_skip rfl (by simp [nextPc]) fun _ => id)⟩
  | sneImm x kk => exact ⟨_, rfl, .inl (.of_skip rfl (by simp [nextPc]) fun _ => id)⟩
  | seReg x y => exact ⟨_, rfl, .inl (.of_skip rfl (by simp [nextPc]) fun _ => id)⟩
  | sneReg x y => exact ⟨_, rfl, .inl (.of_skip rfl (by simp [nextPc]) fun _ => id)⟩
  | ldImm x kk => exact ⟨_, rfl, .inl (.of_setV rfl rfl fun _ => id)⟩
  | addImm x kk => exact ⟨_, rfl, .inl (.of_setV rfl rfl fun _ => id)⟩
  | ldReg x y => exact ⟨_, rfl, .inl (.of_setV rfl rfl fun _ => id)⟩
  | orReg x y => exact ⟨_, rfl, .inl (.of_setV rfl rfl fun _ => id)⟩
  | andReg x y => exact ⟨_, rfl, .inl (.of_setV rfl rfl fun _ => id)⟩
  | xorReg x y => exact ⟨_, rfl, .inl (.of_setV rfl rfl fun _ => id)⟩
  | addReg x y => exact ⟨_, rfl, .inl (.of_setResultAndFlag rfl rfl fun _ => id)⟩
  | sub x y => exact ⟨_, rfl, .inl (.of_setResultAndFlag rfl rfl fun _ => id)⟩
  | shr x y => exact ⟨_, rfl, .inl (.of_setResultAndFlag rfl rfl fun _ => id)⟩
  | subn x y => exact ⟨_, rfl, .inl (.of_setResultAndFlag rfl rfl fun _ => id)⟩
  | shl x y => exact ⟨_, rfl, .inl (.of_setResultAndFlag rfl rfl fun _ => id)⟩
  | ldI nnn => exact ⟨_, rfl, .inl (.of_advance rfl rfl rfl (unchanged_setI s _) fun _ => id)⟩
  | jpV0 nnn => exact ⟨_, rfl, .inl (.of_result rfl rfl (unchanged_setPc s _) (unchanged_complete _))⟩
  | rnd x kk => exact ⟨_, rfl, .inl (.of_setV rfl rfl fun _ => id)⟩
  | drw x y n =>
    rcases execDrw_cases x y n s with ⟨h0, h, e⟩ | ⟨h, e⟩
    · exact ⟨_, e, .inr ⟨_, _, if_pos (by omega), rfl⟩⟩
    · exact ⟨_, e, .inl (.of_result (if_neg (by omega)) (ofNat_toNat_add _ _).symm
        (((unchanged_setFb s _).comp (unchanged_setV _ regF _)).advance fun _ => Or.imp_right Or.symm)
        (unchanged_completeDraw _))⟩
  | skp x =>
    rcases execSkp_cases x s with ⟨h, e⟩ | ⟨h, e⟩
    · exact ⟨_, e, .inl (.of_skip (if_neg (by omega)) (nextPc_skp s h) fun _ => id)⟩
    · exact ⟨_, e, .inr ⟨_, _, if_pos h, rfl⟩⟩
  | sknp x =>
    rcases execSknp_cases x s with ⟨h, e⟩ | ⟨h, e⟩
    · exact ⟨_, e, .inl (.of_skip (if_neg (by omega)) (nextPc_sknp s h) fun _ => id)⟩
    · exact ⟨_, e, .inr ⟨_, _, if_pos h, rfl⟩⟩
  | ldVxDt x => exact ⟨_, rfl, .inl (.of_setV rfl rfl fun _ => id)⟩
  | ldVxK x =>
    exact ⟨_, rfl, .inl (.of_result rfl (by simp [nextPc]) (unchanged_beginWait s x) (unchanged_complete _))⟩
  | ldDtVx x => exact ⟨_, rfl, .inl (.of_advance rfl rfl rfl (unchanged_setDt s _) fun _ => id)⟩
  | ldStVx x => exact ⟨_, rfl, .inl (.of_advance rfl rfl rfl (unchanged_setSt s _) fun _ => id)⟩
  | addIVx x => exact ⟨_, rfl, .inl (.of_advance rfl rfl rfl (unchanged_setI s _) fun _ => id)⟩
  | ldFVx x => exact ⟨_, rfl, .inl (.of_advance rfl rfl rfl (unchanged_setI s _) fun _ => id)⟩
  | ldBVx x => exact storeAtIndex_ends (length_bcdDigits _) rfl rfl fun _ => id
  | ldMemVx x =>
    refine storeAtIndex_ends (length_vUpTo s x) rfl rfl fun _ => Or.imp_right ?_
    rintro ⟨k, hk, hp⟩
    exact ⟨k, Nat.lt_succ_iff.mp hk, hp⟩
  | ldVxMem x =>
    rcases execLdVxMem_cases x s with ⟨h, e⟩ | ⟨h, e⟩
    · exact ⟨_, e, .inr ⟨_, _, if_pos h, rfl⟩⟩
    · exact ⟨_, e, .inl (.of_advance (if_neg (by omega)) rfl rfl (unchanged_loadV s x _) fun _ => id)⟩

/-- The answer of the execute phase, read backwards. -/
theorem exec_cases {i : Instr} {s t : State} (h : exec i s = .next t) : Completes i s t ∨ Raises i s t := by
  obtain ⟨t', e, hends⟩ := exec_ends i s
  cases e.symm.trans h
  exact hends

/-! ## What a tick and a step may change (R33) -/

theorem FaultsWith.frame {r : FaultRecord} {s t : State} (h : FaultsWith r s t) :
    Unchanged (fun p => p = .result ∨ p = .fault) s t := by
  obtain ⟨-, -, hu⟩ := h
  exact hu.mono fun p hp => by simpa [or_comm] using hp

theorem waitTick_frame (s : State) :
    Unchanged (fun p => p = .result ∨
      ((s.hasNewKey ∧ (p = .v s.waitX ∨ p = .pc ∨ p = .waiting)) ∨ (¬ s.hasNewKey ∧ p = .keyPrev)))
      s (waitTick s) := by
  rcases waitTick_cases s with ⟨k, hk, -, e⟩ | ⟨hk, e⟩ <;> rw [e]
  · have hnew : s.hasNewKey := (hasNewKey_iff s).mpr (List.ne_nil_of_mem hk)
    refine ((((unchanged_setV s s.waitX _).comp (unchanged_advance _)).comp (unchanged_endWait _)).comp
      (unchanged_complete _)).mono fun p hp => ?_
    tauto
  · have hnew : ¬ s.hasNewKey := fun h => (hasNewKey_iff s).mp h hk
    exact ((unchanged_sampleKeys s).comp (unchanged_complete _)).mono fun p hp =>
      hp.symm.imp_right fun h => .inr ⟨hnew, h⟩

/-- The frame of a tick: the result, and what R33 lists for the phase the tick reaches. -/
theorem tick_frame {s t : State} (h : tick s = .next t) :
    Unchanged (fun p => p = .result ∨ tickMayChange s p) s t := by
  rcases tick_cases h with ⟨r, -, rfl⟩ | ⟨hf, hw, rfl⟩ | ⟨hf, hw, hi, r, -, rfl⟩ |
    ⟨hf, hw, i, w, hi, -, -, he⟩
  · exact (unchanged_with_result s _).mono fun _ => .inl
  · exact (waitTick_frame s).mono fun p => Or.imp_right fun hp => by simpa [tickMayChange, hf, hw] using hp
  · exact (faultsWith_raise s r).frame.mono fun p => Or.imp_right fun hp => by
      simpa [tickMayChange, hf, hw, hi] using hp
  · rcases exec_cases he with hc | ⟨kind, addr, hx, rfl⟩
    · exact hc.frame.mono fun p => Or.imp_right fun hp => by
        simp [tickMayChange, hf, hw, hi, hc.noFault, hp]
    · exact (faultsWith_raise s _).frame.mono fun p => Or.imp_right fun hp => by
        simp [tickMayChange, hf, hw, hi, hx, hp]

section NextEvent

variable {s : State} {e : HostEvent} {es : List HostEvent}

theorem step_of_nil (h : s.pending = []) : step s = tick s.drawRnd := by
  simp only [step, h]

theorem step_of_cons (h : s.pending = e :: es) : step s = runEvent e { s with pending := es } := by
  simp only [step, h]

theorem nextEvent_of_nil (h : s.pending = []) : nextEvent s = .tick (Config.freeRnd s.rndCount) := by
  simp only [nextEvent, h]

theorem nextEvent_of_cons (h : s.pending = e :: es) : nextEvent s = e := by
  simp only [nextEvent, h]

end NextEvent

/-- What a step does: it takes the next event on the state that no longer lists it. Only the model's own
fields differ between that state and `s`. -/
theorem step_cases {s t : State} (h : step s = .next t) :
    (∃ b c es, nextEvent s = .tick b ∧ tick { s with rnd := b, rndCount := c, pending := es } = .next t) ∨
    (∃ es, nextEvent s = .advanceTimers ∧ t = advanceTimers { s with pending := es }) ∨
    (∃ k b es, nextEvent s = .setKey k b ∧ t = setKey k b { s with pending := es }) ∨
    (∃ program es, nextEvent s = .resetLoad program ∧ t = resetLoad program { s with pending := es }) := by
  cases hp : s.pending with
  | nil =>
    rw [step_of_nil hp] at h
    exact .inl ⟨_, s.rndCount + 1, s.pending, nextEvent_of_nil hp, h⟩
  | cons e es =>
    rw [step_of_cons hp] at h
    have hev := nextEvent_of_cons hp
    cases e with
    | tick b => exact .inl ⟨b, s.rndCount, es, hev, h⟩
    | advanceTimers => cases h; exact .inr (.inl ⟨es, hev, rfl⟩)
    | setKey k b => cases h; exact .inr (.inr (.inl ⟨k, b, es, hev, rfl⟩))
    | resetLoad program => cases h; exact .inr (.inr (.inr ⟨program, es, hev, rfl⟩))

theorem step_frame {s t : State} (h : step s = .next t) : Unchanged (mayChange s (nextEvent s)) s t := by
  rcases step_cases h with ⟨b, c, es, hev, ht⟩ | ⟨es, hev, rfl⟩ | ⟨k, b, es, hev, rfl⟩ |
    ⟨program, es, hev, rfl⟩ <;> rw [hev]
  · exact (unchanged_with_host s b c es).comp (tick_frame ht)
  · exact (unchanged_with_host s _ _ es).comp (unchanged_advanceTimers _)
  · exact (unchanged_with_host s _ _ es).comp (unchanged_setKey _ k b)
  · exact fun p hp => absurd trivial hp

/-- Settles O12: the frame of a step, read backwards. -/
theorem eventsWriteOnlyWhatTheTableLists : Obligations.EventsWriteOnlyWhatTheTableLists := by
  intro s t p hstep hchanged
  by_contra hno
  exact hchanged (step_frame hstep p hno)

/-! ## The bounds of R23 -/

theorem pc_le_of_fetch_ok {s : State} {w : Word} (h : fetch s = .ok w) : s.pc.toNat ≤ 4094 := by
  rcases fetch_cases s with ⟨hpc, -⟩ | ⟨-, e⟩ | ⟨-, e⟩
  · exact hpc
  · cases e.symm.trans h
  · cases e.symm.trans h

/-- Only CALL and RET move the stack pointer. -/
theorem writes_sp {s : State} {i : Instr} (h : Instr.writes s i .sp) : i = .ret ∨ ∃ nnn, i = .call nnn := by
  cases i <;> simp_all [Instr.writes]

/-- Only CALL writes a stack slot. -/
theorem writes_slot {s : State} {i : Instr} {k : Fin params.stackCapacity} (h : Instr.writes s i (.slot k)) :
    ∃ nnn, i = .call nnn := by
  cases i <;> simp_all [Instr.writes]

/-- PC of an instruction that could be fetched stays in the range of R23: a sequential PC or a skip is at most
4098, a jump target at most 0xFFF, that of JP V0 at most 0x10FE, and a return address at most 4096. -/
theorem nextPc_le {s : State} (hb : s.addressesBounded) (hpc : s.pc.toNat ≤ 4094) (i : Instr) :
    nextPc s i ≤ 0x10FE := by
  obtain ⟨-, hslots⟩ := hb
  cases i with
  | jp nnn | call nnn =>
    have := nnn.isLt
    simp only [nextPc]
    omega
  | jpV0 nnn =>
    have := nnn.isLt
    have := (s.getV 0#4).isLt
    simp only [nextPc]
    omega
  | ret =>
    simp only [nextPc]
    split_ifs with h
    · have hsp := s.sp.isLt
      exact (hslots ⟨s.sp.val - 1, by omega⟩ (Nat.sub_lt h Nat.one_pos)).trans (by decide)
    · omega
  | seImm | sneImm | seReg | sneReg | skp | sknp =>
    simp only [nextPc]
    split_ifs <;> omega
  | _ =>
    simp only [nextPc]
    omega

/-- The address after an instruction that could be fetched, without a wrap. -/
theorem toNat_add_two_le {pc : Word} (h : pc.toNat ≤ 4094) : (pc + 2#16).toNat ≤ 4096 := by
  rw [BitVec.toNat_add]
  exact (Nat.mod_le _ _).trans (by simpa using h)

/-- An occupied slot after an instruction was occupied before and is the same, or is the address that a CALL
pushed. -/
theorem exec_occupied_slot {i : Instr} {s t : State} (h : exec i s = .next t) (k : Fin params.stackCapacity)
    (hk : k.val < t.sp.val) :
    (k.val < s.sp.val ∧ t.stack[k.val] = s.stack[k.val]) ∨ t.stack[k.val] = s.pc + 2#16 := by
  rcases exec_cases h with hc | ⟨kind, addr, -, rfl⟩
  · by_cases hi : i = .ret ∨ ∃ nnn, i = .call nnn
    · rcases hi with rfl | ⟨nnn, rfl⟩
      · rcases execRet_cases s with ⟨-, e⟩ | ⟨n, hn, d, hsp, hd, e⟩ <;> cases e.symm.trans h
        · exact .inl ⟨hk, rfl⟩
        · have hk : k.val < d.val := hk
          exact .inl ⟨by omega, rfl⟩
      · rcases execCall_cases nnn s with ⟨-, e⟩ | ⟨hlt, d, hd, e⟩ <;> cases e.symm.trans h
        · exact .inl ⟨hk, rfl⟩
        · have hk : k.val < d.val := hk
          by_cases hks : s.sp.val = k.val
          · right
            simp [hks]
          · exact .inl ⟨by omega, Vector.getElem_set_ne hlt k.isLt hks⟩
    · have hsp : t.sp = s.sp := hc.frame .sp (by simpa using mt writes_sp hi)
      have hslot : t.stack[k.val] = s.stack[k.val] :=
        hc.frame (.slot k) (by simpa using fun hw => hi (.inr (writes_slot hw)))
      exact .inl ⟨hsp ▸ hk, hslot⟩
  · exact .inl ⟨hk, rfl⟩

theorem exec_keeps_addressesBounded {i : Instr} {s t : State} (hb : s.addressesBounded)
    (hpc : s.pc.toNat ≤ 4094) (h : exec i s = .next t) : t.addressesBounded := by
  constructor
  · rcases exec_cases h with hc | ⟨kind, addr, -, rfl⟩
    · rw [hc.pc, BitVec.toNat_ofNat]
      exact (Nat.mod_le _ _).trans (nextPc_le hb hpc i)
    · exact hb.1
  · intro k hk
    rcases exec_occupied_slot h k hk with ⟨hks, e⟩ | e <;> rw [e]
    · exact hb.2 k hks
    · exact toNat_add_two_le hpc

theorem waitTick_keeps_addressesBounded {s : State} (hb : s.addressesBounded) (hpc : s.pc.toNat ≤ 4094) :
    (waitTick s).addressesBounded := by
  rcases waitTick_cases s with ⟨k, -, -, e⟩ | ⟨-, e⟩ <;> rw [e]
  · exact ⟨(toNat_add_two_le hpc).trans (by decide), hb.2⟩
  · exact hb

theorem tick_keeps_addressesBounded {s t : State} (hw : s.waitConsistent) (hb : s.addressesBounded)
    (h : tick s = .next t) : t.addressesBounded := by
  rcases tick_cases h with ⟨r, -, rfl⟩ | ⟨-, hwait, rfl⟩ | ⟨-, -, -, r, -, rfl⟩ |
    ⟨-, -, i, w, -, hfetch, -, he⟩
  · exact hb
  · obtain ⟨-, hfetch⟩ := hw hwait
    exact waitTick_keeps_addressesBounded hb (pc_le_of_fetch_ok hfetch)
  · exact hb
  · exact exec_keeps_addressesBounded hb (pc_le_of_fetch_ok hfetch) he

/-- PC is 0x200 and the stack is empty after a reset, whether the program fits or not. -/
theorem resetLoad_addressesBounded (program : List Byte) (s : State) : (resetLoad program s).addressesBounded := by
  have hpc : State.reset.pc.toNat ≤ 0x10FE := by decide
  rcases resetLoad_cases program s with ⟨-, e⟩ | ⟨-, e⟩ <;> rw [e]
  · exact ⟨hpc, fun k hk => absurd hk (Nat.not_lt_zero _)⟩
  · exact ⟨hpc, fun k hk => absurd hk (Nat.not_lt_zero _)⟩

/-- Settles O59, by the event of the step: a tick fetches at 4094 at most, a reset starts over, and the other
events leave PC and the stack alone. -/
theorem stepKeepsAddressesBounded : Obligations.StepKeepsAddressesBounded := by
  intro s t hw hb h
  rcases step_cases h with ⟨b, c, es, -, ht⟩ | ⟨es, -, rfl⟩ | ⟨k, b, es, -, rfl⟩ | ⟨program, es, -, rfl⟩
  · exact tick_keeps_addressesBounded (s := { s with rnd := b, rndCount := c, pending := es }) hw hb ht
  · exact hb
  · exact hb
  · exact resetLoad_addressesBounded program _

end Sys2Proof.Machine

/-! # Proofs: memory (20_memory.md): its canonical form (R53, R57) and the coherence of the fetch (R65) -/

namespace Sys2Proof.Machine

/-! ## What an instruction does to memory -/

/-- A store at the index register leaves memory alone or writes its bytes, all of them in range (R205). -/
theorem storeAtIndex_mem {i : Instr} {bytes : List Byte} {s t : State} (h : storeAtIndex i bytes s = .next t) :
    t.mem = s.mem ∨ (s.i.toNat + bytes.length ≤ 4096 ∧ t.mem = s.mem.writeBytes s.i.toNat bytes) := by
  rcases storeAtIndex_cases i bytes s with ⟨-, e⟩ | ⟨rfl | hle, e⟩ <;> cases e.symm.trans h
  · exact .inl rfl
  · exact .inl rfl
  · exact .inr ⟨hle, rfl⟩

/-- The execute phase leaves memory alone, or stores bytes in range from the index register on: only Fx33 and
Fx55 do (R33). -/
theorem exec_mem {i : Instr} {s t : State} (h : exec i s = .next t) :
    t.mem = s.mem ∨
      ∃ bytes, s.i.toNat + bytes.length ≤ 4096 ∧ t.mem = s.mem.writeBytes s.i.toNat bytes := by
  cases i with
  | ldBVx | ldMemVx => exact (storeAtIndex_mem h).imp_right fun hw => ⟨_, hw⟩
  | ret =>
    rcases execRet_cases s with ⟨-, e⟩ | ⟨k, hk, d, -, -, e⟩ <;> cases e.symm.trans h <;> exact .inl rfl
  | call nnn =>
    rcases execCall_cases nnn s with ⟨-, e⟩ | ⟨hsp, d, -, e⟩ <;> cases e.symm.trans h <;> exact .inl rfl
  | drw x y n =>
    rcases execDrw_cases x y n s with ⟨-, -, e⟩ | ⟨-, e⟩ <;> cases e.symm.trans h <;> exact .inl rfl
  | skp x =>
    rcases execSkp_cases x s with ⟨hk, e⟩ | ⟨-, e⟩ <;> cases e.symm.trans h <;> exact .inl rfl
  | sknp x =>
    rcases execSknp_cases x s with ⟨hk, e⟩ | ⟨-, e⟩ <;> cases e.symm.trans h <;> exact .inl rfl
  | ldVxMem x =>
    rcases execLdVxMem_cases x s with ⟨-, e⟩ | ⟨-, e⟩ <;> cases e.symm.trans h <;> exact .inl rfl
  | addReg | sub | shr | subn | shl =>
    cases h
    exact .inl (setResultAndFlag_mem ..)
  | _ =>
    cases h
    exact .inl rfl

/-! ## The canonical form is kept -/

theorem exec_keeps_memoryCanonical {i : Instr} {s t : State} (hc : s.memoryCanonical) (h : exec i s = .next t) :
    t.memoryCanonical := by
  unfold State.memoryCanonical
  rcases exec_mem h with e | ⟨bytes, hle, e⟩ <;> rw [e]
  · exact hc
  · exact Memory.wf_writeBytes hc hle

theorem tick_keeps_memoryCanonical {s t : State} (hc : s.memoryCanonical) (h : tick s = .next t) :
    t.memoryCanonical := by
  rcases tick_cases h with ⟨r, -, rfl⟩ | ⟨-, -, rfl⟩ | ⟨-, -, -, r, -, rfl⟩ | ⟨-, -, i, w, -, -, -, he⟩
  · exact hc
  · exact (congrArg Memory.wf (waitTick_mem s)).trans hc
  · exact hc
  · exact exec_keeps_memoryCanonical hc he

/-- A reset puts memory in its canonical form, whether the program fits or not. -/
theorem resetLoad_memoryCanonical (program : List Byte) (s : State) : (resetLoad program s).memoryCanonical := by
  rcases resetLoad_cases program s with ⟨hle, e⟩ | ⟨-, e⟩ <;> rw [e]
  · exact wf_programCells hle
  · exact wf_reset

/-- Settles O57, by the event of the step: a tick stores bytes in range if any, a reset starts from the loaded
program, and the other events leave memory alone. -/
theorem stepKeepsMemoryCanonical : Obligations.StepKeepsMemoryCanonical := by
  intro s t hc h
  rcases step_cases h with ⟨b, c, es, -, ht⟩ | ⟨es, -, rfl⟩ | ⟨k, b, es, -, rfl⟩ | ⟨program, es, -, rfl⟩
  · exact tick_keeps_memoryCanonical (s := { s with rnd := b, rndCount := c, pending := es }) hc ht
  · exact hc
  · exact hc
  · exact resetLoad_memoryCanonical program _

/-! ## The fetch reads stored bytes -/

theorem fetch_of_le {s : State} (h : s.pc.toNat ≤ 4094) :
    fetch s = .ok (wordOfBytes (s.mem.read s.pc.toNat) (s.mem.read (s.pc.toNat + 1))) := by
  rcases fetch_cases s with ⟨-, e⟩ | ⟨hpc, -⟩ | ⟨hpc, -⟩
  · exact e
  · omega
  · omega

section Store

variable {s : State} {x : Reg}

/-- Fx55 with its bytes in range (R207). -/
theorem exec_ldMemVx_of_le (hle : s.i.toNat + x.toNat ≤ 4095) :
    exec (.ldMemVx x) s = .next (s.setMem (s.mem.writeBytes s.i.toNat (s.vUpTo x))).advance.complete := by
  rcases storeAtIndex_cases (.ldMemVx x) (s.vUpTo x) s with ⟨hgt, -⟩ | ⟨-, e⟩
  · rw [length_vUpTo] at hgt
    omega
  · exact e

/-- After `V[0]` to `V[x]` are stored at the index register, `V[r]` is read at offset `r`. -/
theorem read_writeBytes_vUpTo (hc : s.memoryCanonical) (hle : s.i.toNat + x.toNat ≤ 4095) {r : Reg} (hr : r ≤ x) :
    (s.mem.writeBytes s.i.toNat (s.vUpTo x)).read (s.i.toNat + r.toNat) = s.getV r := by
  have hlen := length_vUpTo s x
  have hk : r.toNat < (s.vUpTo x).length := hlen ▸ Nat.lt_succ_of_le hr
  rw [Memory.read_writeBytes_inside hc (by omega) hk, getElem_vUpTo, BitVec.ofNat_toNat, BitVec.setWidth_eq]

end Store

/-- Settles O42: the two bytes at the next PC are those of `V[r]` and `V[r + 1]`, both among the registers
stored, since `r < x` keeps `r + 1` from wrapping. -/
theorem fetchSeesStoredBytes : Obligations.FetchSeesStoredBytes := by
  intro x r s hc hle hr
  refine ⟨_, exec_ldMemVx_of_le hle, fun hpc => ?_⟩
  have hrx : r.toNat < x.toNat := hr
  have hsucc : (r + 1#4).toNat = r.toNat + 1 := BitVec.toNat_add_of_lt (by have := x.isLt; simp; omega)
  have hhi := read_writeBytes_vUpTo hc hle (BitVec.le_of_lt hr)
  have hlo := read_writeBytes_vUpTo hc hle (r := r + 1#4) (by rw [BitVec.le_def]; omega)
  rw [fetch_of_le (by simp only [complete_pc, advance_pc, setMem_pc]; omega)]
  simp only [complete_pc, advance_pc, setMem_pc, complete_mem, advance_mem, setMem_mem, hpc, hhi]
  rw [Nat.add_assoc, ← hsucc, hlo]

end Sys2Proof.Machine

/-! # Proofs: encoding and decoding (30_encoding.md): the fields (R81), the opcode map (R84) and the round trips -/

namespace Sys2Proof

/-! ## The fields as the formulas of R81 give them -/

/-- The bits extracted from a word, as its right shift under the mask of as many ones. -/
theorem toNat_extractLsb'_eq_mask (w : Word) (start len : Nat) (hlen : len ≤ 16) :
    (w.extractLsb' start len).toNat = ((w >>> start) &&& BitVec.ofNat 16 (2 ^ len - 1)).toNat := by
  have hmask : 2 ^ len - 1 < 2 ^ 16 :=
    lt_of_lt_of_le (Nat.sub_lt (Nat.two_pow_pos len) Nat.one_pos) (Nat.pow_le_pow_right Nat.two_pos hlen)
  rw [BitVec.extractLsb'_toNat, BitVec.toNat_and, BitVec.toNat_ushiftRight, BitVec.toNat_ofNat,
    Nat.mod_eq_of_lt hmask, Nat.and_two_pow_sub_one_eq_mod]

/-- Settles O1: each field is a shift and a mask of ones. -/
theorem fieldsFollowTheFormulas : Obligations.FieldsFollowTheFormulas := fun w =>
  ⟨toNat_extractLsb'_eq_mask w 0 12 (by decide), toNat_extractLsb'_eq_mask w 0 4 (by decide),
    toNat_extractLsb'_eq_mask w 8 4 (by decide), toNat_extractLsb'_eq_mask w 4 4 (by decide),
    toNat_extractLsb'_eq_mask w 0 8 (by decide)⟩

/-! ## Decoding what was encoded -/

/-- Decoding undoes encoding, by the format of the instruction (R82): the family nibble and the function
nibble or low byte select the row, and the fields give the operands back. -/
theorem decodeWord_encode (i : Instr) : decodeWord (encode i) = .ok i := by
  cases i with
  | cls | ret => rfl
  | jp | call | ldI | jpV0 => simp [encode, decodeWord, fieldFamily_formatNNN, fieldNnn_formatNNN]
  | seImm | sneImm | ldImm | addImm | rnd =>
    simp [encode, decodeWord, fieldFamily_formatXKK, fieldX_formatXKK, fieldKk_formatXKK]
  | seReg | sneReg | drw =>
    simp [encode, decodeWord, fieldFamily_formatXYN, fieldX_formatXYN, fieldY_formatXYN, fieldN_formatXYN]
  | ldReg | orReg | andReg | xorReg | addReg | sub | shr | subn | shl =>
    simp [encode, decodeWord, decodeFamily8, fieldFamily_formatXYN, fieldX_formatXYN, fieldY_formatXYN,
      fieldN_formatXYN]
  | skp | sknp =>
    simp [encode, decodeWord, decodeFamilyE, fieldFamily_formatXKK, fieldX_formatXKK, fieldKk_formatXKK]
  | ldVxDt | ldVxK | ldDtVx | ldStVx | addIVx | ldFVx | ldBVx | ldMemVx | ldVxMem =>
    simp [encode, decodeWord, decodeFamilyF, fieldFamily_formatXKK, fieldX_formatXKK, fieldKk_formatXKK]

/-- The byte decoder reads a word laid out as memory holds it (R62) and leaves the bytes after it. -/
theorem decode_bytesOfWord_append {w : Word} {i : Instr} (h : decodeWord w = .ok i) (rest : List Byte) :
    decode (bytesOfWord w ++ rest) = .ok (i, rest) := by
  simp [bytesOfWord, decode, wordOfBytes_bytesOfWord, h]

/-- Settles O3: the bytes of the word are put together again, and the word decodes to its instruction. -/
theorem decodeOfEncodeIsIdentity : Obligations.DecodeOfEncodeIsIdentity := fun i rest =>
  decode_bytesOfWord_append (decodeWord_encode i) rest

/-- Settles O2, by running the decoder. -/
theorem sampleWordsDecode : Obligations.SampleWordsDecode :=
  ⟨rfl, rfl, rfl, rfl, rfl, rfl, rfl, rfl, rfl, rfl, rfl, rfl, rfl, rfl, rfl, rfl, rfl⟩

/-! ## A word rebuilt from the fields that select its row -/

section Rebuild

variable {w : Word} {o n : BitVec 4} {kk : Byte}

theorem formatNNN_of_family (ho : fieldFamily w = o) : formatNNN o (fieldNnn w) = w :=
  ho ▸ formatNNN_fields w

theorem formatXKK_of_family (ho : fieldFamily w = o) : formatXKK o (fieldX w) (fieldKk w) = w :=
  ho ▸ formatXKK_fields w

theorem formatXKK_of_family_of_kk (ho : fieldFamily w = o) (hkk : fieldKk w = kk) :
    formatXKK o (fieldX w) kk = w :=
  hkk ▸ formatXKK_of_family ho

theorem formatXYN_of_family (ho : fieldFamily w = o) : formatXYN o (fieldX w) (fieldY w) (fieldN w) = w :=
  ho ▸ formatXYN_fields w

theorem formatXYN_of_family_of_n (ho : fieldFamily w = o) (hn : fieldN w = n) :
    formatXYN o (fieldX w) (fieldY w) n = w :=
  hn ▸ formatXYN_of_family ho

end Rebuild

/-! ## What the decoder can answer -/

/-- The answers the decoder may give to a word: an instruction whose encoding the word is, or InvalidOpcode
with the word (R90). -/
inductive FaithfulAnswer (w : Word) : Except DecodeError Instr → Prop where
  | instr (i : Instr) (h : encode i = w) : FaithfulAnswer w (.ok i)
  | invalid : FaithfulAnswer w (.error (.invalidOpcode w))

theorem faithfulAnswer_decodeFamily0 (w : Word) : FaithfulAnswer w (decodeFamily0 w) := by
  unfold decodeFamily0
  split_ifs with hcls hret
  · exact .instr _ hcls.symm
  · exact .instr _ hret.symm
  · exact .invalid

theorem faithfulAnswer_decodeFamily8 {w : Word} (ho : fieldFamily w = 0x8#4) :
    FaithfulAnswer w (decodeFamily8 w) := by
  dsimp only [decodeFamily8]
  split
  case h_10 => exact .invalid
  all_goals exact .instr _ (formatXYN_of_family_of_n ho ‹fieldN w = _›)

theorem faithfulAnswer_decodeFamilyE {w : Word} (ho : fieldFamily w = 0xE#4) :
    FaithfulAnswer w (decodeFamilyE w) := by
  unfold decodeFamilyE
  split
  case h_3 => exact .invalid
  all_goals exact .instr _ (formatXKK_of_family_of_kk ho ‹fieldKk w = _›)

theorem faithfulAnswer_decodeFamilyF {w : Word} (ho : fieldFamily w = 0xF#4) :
    FaithfulAnswer w (decodeFamilyF w) := by
  dsimp only [decodeFamilyF]
  split
  case h_10 => exact .invalid
  all_goals exact .instr _ (formatXKK_of_family_of_kk ho ‹fieldKk w = _›)

/-- Families 5 and 9: one instruction, when the function nibble is 0 (R85). -/
theorem faithfulAnswer_if_n_zero {w : Word} {i : Instr} (hi : fieldN w = 0x0#4 → encode i = w) :
    FaithfulAnswer w (if fieldN w = 0x0#4 then .ok i else .error (.invalidOpcode w)) := by
  split_ifs with hn
  · exact .instr i (hi hn)
  · exact .invalid

/-- The decoder answers faithfully, by the family nibble (R85). -/
theorem faithfulAnswer_decodeWord (w : Word) : FaithfulAnswer w (decodeWord w) := by
  unfold decodeWord
  split
  next => exact faithfulAnswer_decodeFamily0 w
  next ho => exact .instr (.jp _) (formatNNN_of_family ho)
  next ho => exact .instr (.call _) (formatNNN_of_family ho)
  next ho => exact .instr (.seImm _ _) (formatXKK_of_family ho)
  next ho => exact .instr (.sneImm _ _) (formatXKK_of_family ho)
  next ho => exact faithfulAnswer_if_n_zero (i := .seReg _ _) (formatXYN_of_family_of_n ho)
  next ho => exact .instr (.ldImm _ _) (formatXKK_of_family ho)
  next ho => exact .instr (.addImm _ _) (formatXKK_of_family ho)
  next ho => exact faithfulAnswer_decodeFamily8 ho
  next ho => exact faithfulAnswer_if_n_zero (i := .sneReg _ _) (formatXYN_of_family_of_n ho)
  next ho => exact .instr (.ldI _) (formatNNN_of_family ho)
  next ho => exact .instr (.jpV0 _) (formatNNN_of_family ho)
  next ho => exact .instr (.rnd _ _) (formatXKK_of_family ho)
  next ho => exact .instr (.drw _ _ _) (formatXYN_of_family ho)
  next ho => exact faithfulAnswer_decodeFamilyE ho
  next ho => exact faithfulAnswer_decodeFamilyF ho
  next => exact .invalid

/-- Settles O4: an answer of the decoder that is an instruction is one whose encoding the word is. -/
theorem encodeOfDecodeIsIdentity : Obligations.EncodeOfDecodeIsIdentity := by
  intro w i hi
  cases hi ▸ faithfulAnswer_decodeWord w with
  | instr _ h => exact h

/-! ## The decoder and the opcode map -/

section Covers

variable {w : Word} {o n : BitVec 4} {kk : Byte}

theorem formatNNN_of_and_F000 (h : w &&& 0xF000#16 = formatNNN o 0#12) : formatNNN o (fieldNnn w) = w := by
  rw [← formatNNN_fields w, formatNNN_and] at h
  exact formatNNN_of_family (by simpa only [fieldFamily_formatNNN] using congrArg fieldFamily h)

theorem formatXKK_of_and_F000 (h : w &&& 0xF000#16 = formatXKK o 0#4 0#8) :
    formatXKK o (fieldX w) (fieldKk w) = w := by
  rw [← formatXKK_fields w, formatXKK_and_F000] at h
  exact formatXKK_of_family (by simpa only [fieldFamily_formatXKK] using congrArg fieldFamily h)

theorem formatXKK_of_and_F0FF (h : w &&& 0xF0FF#16 = formatXKK o 0#4 kk) : formatXKK o (fieldX w) kk = w := by
  rw [← formatXKK_fields w, formatXKK_and_F0FF] at h
  exact formatXKK_of_family_of_kk (by simpa only [fieldFamily_formatXKK] using congrArg fieldFamily h)
    (by simpa only [fieldKk_formatXKK] using congrArg fieldKk h)

theorem formatXYN_of_and_F000 (h : w &&& 0xF000#16 = formatXYN o 0#4 0#4 0#4) :
    formatXYN o (fieldX w) (fieldY w) (fieldN w) = w := by
  rw [← formatXYN_fields w, formatXYN_and_F000] at h
  exact formatXYN_of_family (by simpa only [fieldFamily_formatXYN] using congrArg fieldFamily h)

theorem formatXYN_of_and_F00F (h : w &&& 0xF00F#16 = formatXYN o 0#4 0#4 n) :
    formatXYN o (fieldX w) (fieldY w) n = w := by
  rw [← formatXYN_fields w, formatXYN_and_F00F] at h
  exact formatXYN_of_family_of_n (by simpa only [fieldFamily_formatXYN] using congrArg fieldFamily h)
    (by simpa only [fieldN_formatXYN] using congrArg fieldN h)

theorem eq_of_and_FFFF {v : Word} (h : w &&& 0xFFFF#16 = v) : v = w := by
  rw [← h, show 0xFFFF#16 = BitVec.allOnes 16 by decide, BitVec.and_allOnes]

end Covers

/-- A word that a row covers is the encoding of an instruction of the row's mnemonic, with the fields of the
word as operands: one case for each row of R84, by the mask of its format. -/
theorem exists_encode_of_covers (w : Word) :
    ∀ row ∈ opcodeRows, row.covers w → ∃ i, encode i = w ∧ i.mnemonic = row.mnemonic := by
  simp only [opcodeRows, List.cons_append, List.nil_append, List.forall_mem_cons]
  exact ⟨fun h => ⟨.cls, eq_of_and_FFFF h, rfl⟩,
    fun h => ⟨.ret, eq_of_and_FFFF h, rfl⟩,
    fun h => ⟨.jp _, formatNNN_of_and_F000 h, rfl⟩,
    fun h => ⟨.call _, formatNNN_of_and_F000 h, rfl⟩,
    fun h => ⟨.seImm _ _, formatXKK_of_and_F000 h, rfl⟩,
    fun h => ⟨.sneImm _ _, formatXKK_of_and_F000 h, rfl⟩,
    fun h => ⟨.seReg _ _, formatXYN_of_and_F00F h, rfl⟩,
    fun h => ⟨.ldImm _ _, formatXKK_of_and_F000 h, rfl⟩,
    fun h => ⟨.addImm _ _, formatXKK_of_and_F000 h, rfl⟩,
    fun h => ⟨.ldReg _ _, formatXYN_of_and_F00F h, rfl⟩,
    fun h => ⟨.orReg _ _, formatXYN_of_and_F00F h, rfl⟩,
    fun h => ⟨.andReg _ _, formatXYN_of_and_F00F h, rfl⟩,
    fun h => ⟨.xorReg _ _, formatXYN_of_and_F00F h, rfl⟩,
    fun h => ⟨.addReg _ _, formatXYN_of_and_F00F h, rfl⟩,
    fun h => ⟨.sub _ _, formatXYN_of_and_F00F h, rfl⟩,
    fun h => ⟨.shr _ _, formatXYN_of_and_F00F h, rfl⟩,
    fun h => ⟨.subn _ _, formatXYN_of_and_F00F h, rfl⟩,
    fun h => ⟨.shl _ _, formatXYN_of_and_F00F h, rfl⟩,
    fun h => ⟨.sneReg _ _, formatXYN_of_and_F00F h, rfl⟩,
    fun h => ⟨.ldI _, formatNNN_of_and_F000 h, rfl⟩,
    fun h => ⟨.jpV0 _, formatNNN_of_and_F000 h, rfl⟩,
    fun h => ⟨.rnd _ _, formatXKK_of_and_F000 h, rfl⟩,
    fun h => ⟨.drw _ _ _, formatXYN_of_and_F000 h, rfl⟩,
    fun h => ⟨.skp _, formatXKK_of_and_F0FF h, rfl⟩,
    fun h => ⟨.sknp _, formatXKK_of_and_F0FF h, rfl⟩,
    fun h => ⟨.ldVxDt _, formatXKK_of_and_F0FF h, rfl⟩,
    fun h => ⟨.ldVxK _, formatXKK_of_and_F0FF h, rfl⟩,
    fun h => ⟨.ldDtVx _, formatXKK_of_and_F0FF h, rfl⟩,
    fun h => ⟨.ldStVx _, formatXKK_of_and_F0FF h, rfl⟩,
    fun h => ⟨.addIVx _, formatXKK_of_and_F0FF h, rfl⟩,
    fun h => ⟨.ldFVx _, formatXKK_of_and_F0FF h, rfl⟩,
    fun h => ⟨.ldBVx _, formatXKK_of_and_F0FF h, rfl⟩,
    fun h => ⟨.ldMemVx _, formatXKK_of_and_F0FF h, rfl⟩,
    fun h => ⟨.ldVxMem _, formatXKK_of_and_F0FF h, rfl⟩,
    fun _ hnil => absurd hnil List.not_mem_nil⟩

/-- Every instruction's row covers its word: the family `EncodesToTableRow`, put together. -/
theorem exists_row_covers_encode (i : Instr) : Laws.EncodesToTableRow.Statement i := by
  cases i with
  | cls => exact Laws.EncodesToTableRow.cls
  | ret => exact Laws.EncodesToTableRow.ret
  | jp nnn => exact Laws.EncodesToTableRow.jp nnn
  | call nnn => exact Laws.EncodesToTableRow.call nnn
  | seImm x kk => exact Laws.EncodesToTableRow.seImm x kk
  | sneImm x kk => exact Laws.EncodesToTableRow.sneImm x kk
  | seReg x y => exact Laws.EncodesToTableRow.seReg x y
  | ldImm x kk => exact Laws.EncodesToTableRow.ldImm x kk
  | addImm x kk => exact Laws.EncodesToTableRow.addImm x kk
  | ldReg x y => exact Laws.EncodesToTableRow.ldReg x y
  | orReg x y => exact Laws.EncodesToTableRow.orReg x y
  | andReg x y => exact Laws.EncodesToTableRow.andReg x y
  | xorReg x y => exact Laws.EncodesToTableRow.xorReg x y
  | addReg x y => exact Laws.EncodesToTableRow.addReg x y
  | sub x y => exact Laws.EncodesToTableRow.sub x y
  | shr x y => exact Laws.EncodesToTableRow.shr x y
  | subn x y => exact Laws.EncodesToTableRow.subn x y
  | shl x y => exact Laws.EncodesToTableRow.shl x y
  | sneReg x y => exact Laws.EncodesToTableRow.sneReg x y
  | ldI nnn => exact Laws.EncodesToTableRow.ldI nnn
  | jpV0 nnn => exact Laws.EncodesToTableRow.jpV0 nnn
  | rnd x kk => exact Laws.EncodesToTableRow.rnd x kk
  | drw x y n => exact Laws.EncodesToTableRow.drw x y n
  | skp x => exact Laws.EncodesToTableRow.skp x
  | sknp x => exact Laws.EncodesToTableRow.sknp x
  | ldVxDt x => exact Laws.EncodesToTableRow.ldVxDt x
  | ldVxK x => exact Laws.EncodesToTableRow.ldVxK x
  | ldDtVx x => exact Laws.EncodesToTableRow.ldDtVx x
  | ldStVx x => exact Laws.EncodesToTableRow.ldStVx x
  | addIVx x => exact Laws.EncodesToTableRow.addIVx x
  | ldFVx x => exact Laws.EncodesToTableRow.ldFVx x
  | ldBVx x => exact Laws.EncodesToTableRow.ldBVx x
  | ldMemVx x => exact Laws.EncodesToTableRow.ldMemVx x
  | ldVxMem x => exact Laws.EncodesToTableRow.ldVxMem x

/-- Settles O5: a covered word is the encoding of an instruction of the row, to which it decodes; and if the
decoder answers an instruction, that instruction's row covers the word. -/
theorem decoderAgreesWithOpcodeMap : Obligations.DecoderAgreesWithOpcodeMap := by
  refine fun w => ⟨fun row hrow hcov => ?_, fun hnone => ?_⟩
  · obtain ⟨i, rfl, hmn⟩ := exists_encode_of_covers w row hrow hcov
    exact ⟨i, decodeWord_encode i, hmn⟩
  · have hans := faithfulAnswer_decodeWord w
    generalize decodeWord w = answer at hans ⊢
    cases hans with
    | invalid => rfl
    | instr i hi =>
      obtain ⟨row, hrow, -, hcov⟩ := exists_row_covers_encode i
      exact absurd (hi ▸ hcov) (hnone row hrow)

end Sys2Proof

/-! # Proofs: the step (40_step.md): fetch, decode and execute (R111 to R116), the signal (R117 to R120), the wait
(R121) and the latch (R122) -/

namespace Sys2Proof.Machine

/-! ## The wait stands at its Fx0A (R121) -/

/-- Only Fx0A begins a wait. -/
theorem writes_waiting {s : State} {i : Instr} (h : Instr.writes s i .waiting) : ∃ x, i = .ldVxK x := by
  cases i <;> simp_all [Instr.writes]

/-- An instruction after which the core waits is Fx0A, and it latched its own register. -/
theorem exec_enters_wait {i : Instr} {s t : State} (h : exec i s = .next t) (hs : s.waiting = false)
    (ht : t.waiting = true) : ∃ x, i = .ldVxK x ∧ t = (s.beginWait x).complete := by
  rcases exec_cases h with hc | ⟨kind, addr, -, rfl⟩
  · have hchanged : t.waiting ≠ s.waiting := by simp [hs, ht]
    have hw : Instr.writes s i .waiting := by
      by_contra hno
      exact hchanged (hc.frame .waiting (by simpa using hno))
    obtain ⟨x, rfl⟩ := writes_waiting hw
    cases h
    exact ⟨x, rfl, rfl⟩
  · exact absurd (ht.symm.trans hs) (by decide)

theorem waitConsistent_of_not_waiting {s : State} (h : s.waiting = false) : s.waitConsistent :=
  fun hw => absurd (hw.symm.trans h) (by decide)

theorem waitTick_keeps_waitConsistent {s : State} (hw : s.waitConsistent) : (waitTick s).waitConsistent := by
  rcases waitTick_cases s with ⟨k, -, -, e⟩ | ⟨-, e⟩ <;> rw [e]
  · exact waitConsistent_of_not_waiting rfl
  · exact hw

/-- The entering tick leaves PC and memory alone, so the word it fetched, which is the encoding of the Fx0A it
decoded to, is still the word at PC. -/
theorem tick_keeps_waitConsistent {s t : State} (hw : s.waitConsistent) (h : tick s = .next t) :
    t.waitConsistent := by
  rcases tick_cases h with ⟨r, -, rfl⟩ | ⟨-, -, rfl⟩ | ⟨-, hs, -, r, -, rfl⟩ |
    ⟨hf, hs, i, w, -, hfetch, hdec, he⟩
  · exact hw
  · exact waitTick_keeps_waitConsistent hw
  · exact waitConsistent_of_not_waiting hs
  · intro ht
    obtain ⟨x, rfl, rfl⟩ := exec_enters_wait he hs ht
    have hword : encode (.ldVxK x) = w := encodeOfDecodeIsIdentity w _ hdec
    exact ⟨hf, hfetch.trans (congrArg Except.ok hword.symm)⟩

/-- A reset leaves the core not waiting, whether the program fits or not. -/
theorem resetLoad_waiting (program : List Byte) (s : State) : (resetLoad program s).waiting = false := by
  rcases resetLoad_cases program s with ⟨-, e⟩ | ⟨-, e⟩ <;> rw [e] <;> rfl

/-- Settles O58, by the event of the step: a tick that enters the wait stands at the Fx0A it decoded, a reset ends
any wait, and the other events leave PC, memory, the wait and the latch alone. -/
theorem stepKeepsWaitConsistent : Obligations.StepKeepsWaitConsistent := by
  intro s t hw h
  rcases step_cases h with ⟨b, c, es, -, ht⟩ | ⟨es, -, rfl⟩ | ⟨k, b, es, -, rfl⟩ | ⟨program, es, -, rfl⟩
  · exact tick_keeps_waitConsistent (s := { s with rnd := b, rndCount := c, pending := es }) hw ht
  · exact hw
  · exact hw
  · exact waitConsistent_of_not_waiting (resetLoad_waiting program _)

/-! ## An instruction that ends without fault (R116 to R120) -/

section NoFault

variable {i : Instr} {s t : State}

/-- An instruction that latches no fault completes: the other end of the execute phase sets the latch. -/
theorem completes_of_noFault (h : exec i s = .next t) (ht : t.fault = none) : Completes i s t := by
  rcases exec_cases h with hc | ⟨kind, addr, -, rfl⟩
  · exact hc
  · cases ht

/-- A draw that completes returns the grid it leaves (R119). -/
theorem exec_drw_result {x y : Reg} {n : Nibble} (h : exec (.drw x y n) s = .next t) (ht : t.fault = none) :
    t.result = .ok (.draw t.fb) := by
  rcases execDrw_cases x y n s with ⟨-, -, e⟩ | ⟨-, e⟩ <;> cases e.symm.trans h
  · cases ht
  · rfl

theorem storeAtIndex_eq_complete {bytes : List Byte} (h : storeAtIndex i bytes s = .next t) (ht : t.fault = none) :
    ∃ u : State, t = u.complete := by
  rcases storeAtIndex_cases i bytes s with ⟨-, e⟩ | ⟨-, e⟩ <;> cases e.symm.trans h
  · cases ht
  · exact ⟨_, rfl⟩

/-- Every other instruction that ends without fault ends with `complete` (R118). -/
theorem exec_eq_complete (hi : ¬ ∃ x y n, i = .drw x y n) (h : exec i s = .next t) (ht : t.fault = none) :
    ∃ u : State, t = u.complete := by
  cases i with
  | drw x y n => exact absurd ⟨x, y, n, rfl⟩ hi
  | ret =>
    rcases execRet_cases s with ⟨-, e⟩ | ⟨k, hk, d, -, -, e⟩ <;> cases e.symm.trans h
    · cases ht
    · exact ⟨_, rfl⟩
  | call nnn =>
    rcases execCall_cases nnn s with ⟨-, e⟩ | ⟨hsp, d, -, e⟩ <;> cases e.symm.trans h
    · cases ht
    · exact ⟨_, rfl⟩
  | skp x =>
    rcases execSkp_cases x s with ⟨hk, e⟩ | ⟨-, e⟩ <;> cases e.symm.trans h
    · exact ⟨_, rfl⟩
    · cases ht
  | sknp x =>
    rcases execSknp_cases x s with ⟨hk, e⟩ | ⟨-, e⟩ <;> cases e.symm.trans h
    · exact ⟨_, rfl⟩
    · cases ht
  | ldBVx | ldMemVx => exact storeAtIndex_eq_complete h ht
  | ldVxMem x =>
    rcases execLdVxMem_cases x s with ⟨-, e⟩ | ⟨-, e⟩ <;> cases e.symm.trans h
    · cases ht
    · exact ⟨_, rfl⟩
  | _ => exact ⟨_, (Host.Outcome.next.inj h).symm⟩

end NoFault

/-- Settles O10: the PC of an instruction that completes. -/
theorem pcFollowsItsClass : Obligations.PcFollowsItsClass :=
  fun _ _ _ _ h ht => (completes_of_noFault h ht).pc

/-- Settles O11: a draw returns its grid, and every other end of an instruction takes the signal from ST. -/
theorem signalOfEveryInstruction : Obligations.SignalOfEveryInstruction := by
  intro i s t _ h ht
  constructor
  · rintro ⟨x, y, n, rfl⟩
    exact exec_drw_result h ht
  · intro hi
    obtain ⟨u, rfl⟩ := exec_eq_complete hi h ht
    rfl

/-! ## The ticks of the wait (R195, R196) -/

section Wait

variable {s : State}

theorem tick_of_waiting (hf : s.fault = none) (hw : s.waiting = true) : tick s = .next (waitTick s) := by
  simp [tick, hf, hw]

/-- The completing tick, for the lowest new key. -/
theorem waitTick_of_lowest {k : Fin 16} (hk : k ∈ s.newKeys)
    (hlow : ∀ j : Fin 16, j.val < k.val → j ∉ s.newKeys) :
    waitTick s = (s.setV s.waitX (BitVec.ofNat 8 k.val)).advance.endWait.complete := by
  rcases waitTick_cases s with ⟨k', hk', hle, e⟩ | ⟨hnil, -⟩
  · have hkk : k' = k := le_antisymm (hle k hk) (not_lt.mp fun hlt => hlow k' hlt hk')
    rw [e, hkk]
  · simp [hnil] at hk

/-- The idle tick. -/
theorem waitTick_of_no_newKey (h : ¬ s.hasNewKey) : waitTick s = s.sampleKeys.complete := by
  rcases waitTick_cases s with ⟨k, hk, -, -⟩ | ⟨-, e⟩
  · exact absurd ((hasNewKey_iff s).mpr (List.ne_nil_of_mem hk)) h
  · exact e

end Wait

/-- Settles O33: the completing tick and the idle tick, with the frame of a tick in the wait. -/
theorem waitTickEndsOnANewKey : Obligations.WaitTickEndsOnANewKey := by
  refine fun s hf hw => ⟨fun k hdown hup hlow => ⟨_, tick_of_waiting hf hw, ?_⟩,
    fun hnone => ⟨_, tick_of_waiting hf hw, ?_⟩⟩
  · have hframe := (waitTick_frame s).mono (D := (· ∈ [.v s.waitX, .pc, .waiting, .result])) fun p hp => by
      simp only [List.mem_cons, List.not_mem_nil, or_false]
      have hnew : s.hasNewKey := ⟨k, hdown, hup⟩
      tauto
    rw [waitTick_of_lowest ((mem_newKeys s k).mpr ⟨hdown, hup⟩)
      fun j hj => mt (mem_newKeys s j).mp (hlow j hj)] at hframe ⊢
    have hreg : ((s.setV s.waitX (BitVec.ofNat 8 k.val)).getV s.waitX).toNat = k.val := by
      rw [getV_setV_self, BitVec.toNat_ofNat]
      omega
    exact ⟨hreg, rfl, rfl, rfl, hframe⟩
  · have hno : ¬ s.hasNewKey := fun ⟨k, hk⟩ => hnone k hk
    have hframe := (waitTick_frame s).mono (D := (· ∈ [.keyPrev, .result])) fun p hp => by
      simp only [List.mem_cons, List.not_mem_nil, or_false]
      tauto
    rw [waitTick_of_no_newKey hno] at hframe ⊢
    exact ⟨rfl, rfl, hframe⟩

/-! ## Fetch and decode (R112, R114) -/

section Fetch

variable {s : State}

/-- The lowest address out of range of a fetch that fails (D30). -/
theorem fetch_of_ge (h : 4095 ≤ s.pc.toNat) : fetch s = .error (max s.pc.toNat 4096) := by
  rcases fetch_cases s with ⟨hpc, -⟩ | ⟨hpc, e⟩ | ⟨hpc, e⟩
  · omega
  · rw [e, hpc]; rfl
  · rw [e, max_eq_left hpc]

/-- A tick whose fetch fails raises MemoryOutOfBounds, without a word. -/
theorem tick_of_fetch_error {a : Nat} (hf : s.fault = none) (hw : s.waiting = false) (hfe : fetch s = .error a) :
    tick s = .next (s.raise ⟨.memoryOutOfBounds, some s.pc, none, some a⟩) := by
  simp [tick, hf, hw, fetchAndExecute, hfe]

/-- The byte decoder decodes two bytes as their big-endian word. -/
theorem decodeWord_of_decode {hi lo : Byte} {i : Instr} {rest : List Byte} (h : decode [hi, lo] = .ok (i, rest)) :
    decodeWord (wordOfBytes hi lo) = .ok i := by
  simp only [decode] at h
  split at h
  · rename_i i' hi
    cases h
    exact hi
  · cases h

end Fetch

/-- Settles O6: the three ranges of PC. -/
theorem fetchIsBigEndianAndBounded : Obligations.FetchIsBigEndianAndBounded := by
  refine fun s => ⟨fun h => ⟨_, fetch_of_le h, toNat_wordOfBytes _ _⟩, fun h => ?_, fun h => ?_⟩
  · rw [fetch_of_ge h.ge, h]; rfl
  · rw [fetch_of_ge (by omega), max_eq_left h]

/-- Settles O7: the two bytes at PC are the fetched word, and a tick runs the instruction it decodes to; the fields
of the host's side do not enter the fetch. -/
theorem stepRunsDecodedInstruction : Obligations.StepRunsDecodedInstruction := by
  intro s i rest hf hw hpc hdec
  have htick (b : Byte) (c : Nat) (es : List HostEvent) :
      tick { s with rnd := b, rndCount := c, pending := es } =
        exec i { s with rnd := b, rndCount := c, pending := es } :=
    tick_of_decode hf hw (fetch_of_le hpc) (decodeWord_of_decode hdec)
  constructor
  · intro hp
    exact (step_of_nil hp).trans (htick _ _ s.pending)
  · intro r es hp
    exact (step_of_cons hp).trans (htick r s.rndCount es)

/-- Settles O52: the fault of the fetch. -/
theorem fetchOutOfRangeIsReported : Obligations.FetchOutOfRangeIsReported := fun s hf hw hpc =>
  ⟨_, tick_of_fetch_error hf hw (fetch_of_ge hpc), faultsWith_raise s _⟩

/-! ## The latch (R122, R254) -/

theorem tick_of_latched {s : State} {r : FaultRecord} (h : s.fault = some r) :
    tick s = .next { s with result := .fault r } := by
  simp [tick, h]

/-- A load of a program that fits clears the latch (R231). -/
theorem resetLoad_fault {program : List Byte} (s : State) (h : program.length ≤ 3584) :
    (resetLoad program s).fault = none := by
  rcases resetLoad_cases program s with ⟨-, e⟩ | ⟨hgt, -⟩
  · rw [e]; rfl
  · omega

/-- Settles O54: what each event does to the latch. -/
theorem latchHoldsUntilReset : Obligations.LatchHoldsUntilReset := fun s r h =>
  ⟨⟨_, tick_of_latched h, rfl, (unchanged_with_result s (.fault r)).mono fun _ => List.mem_singleton.mpr⟩,
    h, fun _ _ => h, fun _ hp => resetLoad_fault s hp⟩

end Sys2Proof.Machine

/-! # Proofs: control transfer (41_control_flow.md): jumps (R132, R137), CALL and RET (R131, R133), the register skips
(R134 to R136, R138) -/

namespace Sys2Proof.Machine

section Control

variable {s : State}

/-! ## CALL and RET as functions of the depth (R131, R133) -/

/-- CALL with a free slot: the return address goes to the slot at the old depth. -/
theorem exec_call_of_lt (nnn : Addr) (h : s.sp.val < params.stackCapacity) :
    exec (.call nnn) s = .next (State.setPc
      { s with
        stack := s.stack.set s.sp.val (s.pc + 2#16) h
        sp := ⟨s.sp.val + 1, Nat.succ_lt_succ h⟩ } (absolute nnn)).complete := by
  rcases execCall_cases nnn s with ⟨hfull, -⟩ | ⟨hlt, d, hd, e⟩
  · exact absurd hfull h.ne
  · obtain rfl : d = ⟨s.sp.val + 1, Nat.succ_lt_succ h⟩ := Fin.ext hd
    exact e

theorem exec_call_of_full (nnn : Addr) (h : s.sp.val = params.stackCapacity) :
    exec (.call nnn) s = .next (s.raiseIn .stackOverflow (encode (.call nnn)) none) := by
  rcases execCall_cases nnn s with ⟨-, e⟩ | ⟨hlt, -⟩
  · exact e
  · exact absurd h hlt.ne

/-- RET at depth `k + 1`: the target is the content of slot `k`. -/
theorem exec_ret_of_succ {k : Nat} (hk : k < params.stackCapacity) (h : s.sp.val = k + 1) :
    exec .ret s = .next (State.setPc { s with sp := ⟨k, Nat.lt_succ_of_lt hk⟩ } s.stack[k]).complete := by
  rcases execRet_cases s with ⟨hempty, -⟩ | ⟨j, hj, d, hsp, hd, e⟩
  · omega
  · obtain rfl : j = k := by omega
    obtain rfl : d = ⟨j, Nat.lt_succ_of_lt hk⟩ := Fin.ext hd
    exact e

theorem exec_ret_of_empty (h : s.sp.val = 0) :
    exec .ret s = .next (s.raiseIn .stackUnderflow (encode .ret) none) := by
  rcases execRet_cases s with ⟨-, e⟩ | ⟨k, -, -, hsp, -⟩
  · exact e
  · omega

/-! ## The targets as unbounded numbers (R130) -/

theorem toNat_absolute (nnn : Addr) : (absolute nnn).toNat = nnn.toNat := by
  have := nnn.isLt
  rw [absolute, BitVec.toNat_ofNat, Nat.mod_eq_of_lt (by omega)]

theorem toNat_offsetTarget (nnn : Addr) (v0 : Byte) : (offsetTarget nnn v0).toNat = nnn.toNat + v0.toNat := by
  have := nnn.isLt
  have := v0.isLt
  rw [offsetTarget, BitVec.toNat_ofNat, Nat.mod_eq_of_lt (by omega)]

/-! ## The frames of control transfers -/

/-- The parts of a control transfer, as the statements list them: those it writes before PC, then PC and the
result. -/
theorem Unchanged.jump {parts : List Part} {u : State} (hu : Unchanged (· ∈ parts) s u) (w : Word) :
    Unchanged (· ∈ parts ++ [.pc, .result]) s (u.setPc w).complete :=
  ((hu.comp (unchanged_setPc u w)).comp (unchanged_complete _)).mono fun p hp => by
    simpa [or_assoc] using hp

theorem unchanged_nil (s : State) : Unchanged (· ∈ []) s s := by
  intro p _
  cases p with
  | host => exact ⟨rfl, rfl, rfl⟩
  | _ => rfl

/-- A push changes the slot at the old depth, and the depth. -/
theorem unchanged_with_push (w : Word) (h : s.sp.val < params.stackCapacity) :
    Unchanged (· ∈ [.slot ⟨s.sp.val, h⟩, .sp]) s
      { s with stack := s.stack.set s.sp.val w h, sp := ⟨s.sp.val + 1, Nat.succ_lt_succ h⟩ } := by
  refine ((unchanged_with_stack_set s _ w h).comp (unchanged_with_sp _ _)).mono ?_
  rintro p (⟨j, rfl, hj⟩ | rfl)
  · simpa [Fin.ext_iff] using hj
  · simp

/-- A skip on the condition `P`: where PC goes, and the frame. -/
theorem skipIf_complete_ends {P : Prop} [Decidable P] {cond : Bool} (h : cond = true ↔ P) :
    (s.skipIf cond).complete.pc = (if P then s.pc + 4#16 else s.pc + 2#16) ∧
      Unchanged (· ∈ [.pc, .result]) s (s.skipIf cond).complete :=
  ⟨by simp only [complete_pc, skipIf_pc, h], (unchanged_nil s).jump _⟩

end Control

/-- Settles O17: CALL writes the slot that RET reads, the lower slots are other slots, and RET takes the depth back. -/
theorem retAfterCallComesBack : Obligations.RetAfterCallComesBack := by
  intro nnn s h
  refine ⟨_, _, exec_call_of_lt nnn h, exec_ret_of_succ h rfl, ?_, rfl, fun k hk => ?_, rfl, rfl, rfl, rfl⟩
  · exact Vector.getElem_set_self h
  · exact Vector.getElem_set_ne h k.isLt hk.ne'

/-- Settles O14: the two arms of RET. -/
theorem retPopsTheReturnAddress : Obligations.RetPopsTheReturnAddress := by
  refine fun s => ⟨fun k hk => ?_, fun h => ⟨_, _, exec_ret_of_empty h, rfl, faultsWith_raise s _⟩⟩
  exact ⟨_, exec_ret_of_succ k.isLt hk, rfl, rfl,
    ((unchanged_with_sp s _).mono fun _ => List.mem_singleton.mpr).jump _⟩

/-- Settles O15: both targets fit in PC. -/
theorem jumpsSetPc : Obligations.JumpsSetPc := fun nnn s =>
  ⟨⟨_, rfl, toNat_absolute nnn, (unchanged_nil s).jump _⟩,
    ⟨_, rfl, toNat_offsetTarget nnn _, (unchanged_nil s).jump _⟩⟩

/-- Settles O16: the two arms of CALL. -/
theorem callPushesTheReturnAddress : Obligations.CallPushesTheReturnAddress := by
  refine fun nnn s => ⟨?_, fun h => ⟨_, _, exec_call_of_full nnn h, rfl, faultsWith_raise s _⟩⟩
  rintro ⟨k, hlt⟩ hk
  obtain rfl : s.sp.val = k := hk
  exact ⟨_, exec_call_of_lt nnn hlt, Vector.getElem_set_self hlt, rfl, toNat_absolute nnn,
    (unchanged_with_push _ hlt).jump _⟩

/-- Settles O18: the Boolean comparison of each skip is its condition. -/
theorem skipsCompareRegisters : Obligations.SkipsCompareRegisters := fun _ _ _ _ =>
  ⟨⟨_, rfl, skipIf_complete_ends beq_iff_eq⟩, ⟨_, rfl, skipIf_complete_ends bne_iff_ne⟩,
    ⟨_, rfl, skipIf_complete_ends beq_iff_eq⟩, ⟨_, rfl, skipIf_complete_ends bne_iff_ne⟩⟩

end Sys2Proof.Machine

/-! # Proofs: immediate loads, immediate add, index load, random (42_load_add_rnd.md): the four instructions (R150 to
R153), and the byte that only Cxkk reads (R154) -/

namespace Sys2Proof.Machine

/-! ## The byte on the port `rnd` (R154, D17) -/

/-- The state with another byte on the port `rnd` (R235). -/
def State.withRnd (b : Byte) (s : State) : State := { s with rnd := b }

/-- An answer with another byte on the port of its next state. -/
def answerWithRnd (b : Byte) : Answer → Answer
  | .next t => .next (t.withRnd b)
  | .fault r => .fault r
  | .refused r => .refused r

section Port

variable (b : Byte) (s : State)

@[simp] theorem getV_withRnd (x : Reg) : (s.withRnd b).getV x = s.getV x := rfl

@[simp] theorem indexBase_withRnd : indexBase (s.withRnd b) = indexBase s := rfl

@[simp] theorem newKeys_withRnd : (s.withRnd b).newKeys = s.newKeys := rfl

@[simp] theorem fetch_withRnd : fetch (s.withRnd b) = fetch s := fetch_congr rfl rfl

@[simp] theorem waitTick_withRnd : waitTick (s.withRnd b) = (waitTick s).withRnd b := by
  simp only [waitTick, newKeys_withRnd]
  cases pickKey params.keyPick s.newKeys <;> rfl

/-! ### The instructions that can fault: neither the check nor what follows it reads the port -/

theorem exec_call_withRnd (nnn : Addr) : exec (.call nnn) (s.withRnd b) = answerWithRnd b (exec (.call nnn) s) := by
  rcases execCall_cases nnn s with ⟨h, -⟩ | ⟨h, -⟩
  · rw [exec_call_of_full nnn h, exec_call_of_full (s := s.withRnd b) nnn h]; rfl
  · rw [exec_call_of_lt nnn h, exec_call_of_lt (s := s.withRnd b) nnn h]; rfl

theorem exec_ret_withRnd : exec .ret (s.withRnd b) = answerWithRnd b (exec .ret s) := by
  rcases execRet_cases s with ⟨h, -⟩ | ⟨k, hk, -, h, -⟩
  · rw [exec_ret_of_empty h, exec_ret_of_empty (s := s.withRnd b) h]; rfl
  · rw [exec_ret_of_succ hk h, exec_ret_of_succ (s := s.withRnd b) hk h]; rfl

theorem execSkp_withRnd (x : Reg) : execSkp x (s.withRnd b) = answerWithRnd b (execSkp x s) := by
  simp only [execSkp, getV_withRnd]
  cases keyIndex params.keyIndexPolicy (s.getV x) <;> rfl

theorem execSknp_withRnd (x : Reg) : execSknp x (s.withRnd b) = answerWithRnd b (execSknp x s) := by
  simp only [execSknp, getV_withRnd]
  cases keyIndex params.keyIndexPolicy (s.getV x) <;> rfl

theorem execDrw_withRnd (x y : Reg) (n : Nibble) :
    execDrw x y n (s.withRnd b) = answerWithRnd b (execDrw x y n s) := by
  simp only [execDrw, indexBase_withRnd]
  cases firstOutOfRange (indexBase s) n.toNat <;> rfl

theorem storeAtIndex_withRnd (i : Instr) (bytes : List Byte) :
    storeAtIndex i bytes (s.withRnd b) = answerWithRnd b (storeAtIndex i bytes s) := by
  simp only [storeAtIndex, indexBase_withRnd]
  cases firstOutOfRange (indexBase s) bytes.length <;> rfl

theorem execLdVxMem_withRnd (x : Reg) : execLdVxMem x (s.withRnd b) = answerWithRnd b (execLdVxMem x s) := by
  simp only [execLdVxMem, indexBase_withRnd]
  cases firstOutOfRange (indexBase s) (x.toNat + 1) <;> rfl

/-- No instruction but Cxkk reads the port. -/
theorem exec_withRnd {i : Instr} (hi : ∀ x kk, i ≠ .rnd x kk) :
    exec i (s.withRnd b) = answerWithRnd b (exec i s) := by
  cases i with
  | rnd x kk => exact absurd rfl (hi x kk)
  | call nnn => exact exec_call_withRnd b s nnn
  | ret => exact exec_ret_withRnd b s
  | skp x => exact execSkp_withRnd b s x
  | sknp x => exact execSknp_withRnd b s x
  | drw x y n => exact execDrw_withRnd b s x y n
  | ldBVx | ldMemVx => exact storeAtIndex_withRnd b s _ _
  | ldVxMem x => exact execLdVxMem_withRnd b s x
  | _ => rfl

end Port

section Tick

variable {s : State}

/-- A tick whose word is no instruction raises InvalidOpcode (R255). -/
theorem tick_of_decode_error {w : Word} {e : DecodeError} (hf : s.fault = none) (hw : s.waiting = false)
    (hfe : fetch s = .ok w) (hd : decodeWord w = .error e) :
    tick s = .next (s.raiseIn .invalidOpcode w none) := by
  simp [tick, hf, hw, fetchAndExecute, hfe, decodeAndExecute, hd]

/-- The instruction of a tick that reaches the execute phase. -/
theorem tickInstr_of_decode {w : Word} {i : Instr} (hf : s.fault = none) (hw : s.waiting = false)
    (hfe : fetch s = .ok w) (hd : decodeWord w = .ok i) : tickInstr s = some i := by
  simp [tickInstr, hf, hw, hfe, hd]

/-- A tick takes the same phases whatever byte is on the port, and of these only the execute phase of Cxkk reads
the byte. -/
theorem tick_withRnd (b : Byte) (h : ∀ x kk, tickInstr s ≠ some (.rnd x kk)) :
    tick (s.withRnd b) = answerWithRnd b (tick s) := by
  cases hf : s.fault with
  | some r => rw [tick_of_latched hf, tick_of_latched (s := s.withRnd b) hf]; rfl
  | none =>
    cases hw : s.waiting with
    | true =>
      rw [tick_of_waiting hf hw, tick_of_waiting (s := s.withRnd b) hf hw, waitTick_withRnd]; rfl
    | false =>
      have hfetch := fetch_withRnd b s
      cases hfe : fetch s with
      | error a =>
        rw [tick_of_fetch_error hf hw hfe, tick_of_fetch_error (s := s.withRnd b) hf hw (hfetch.trans hfe)]; rfl
      | ok w =>
        cases hd : decodeWord w with
        | error e =>
          rw [tick_of_decode_error hf hw hfe hd,
            tick_of_decode_error (s := s.withRnd b) hf hw (hfetch.trans hfe) hd]; rfl
        | ok i =>
          rw [tick_of_decode hf hw hfe hd, tick_of_decode (s := s.withRnd b) hf hw (hfetch.trans hfe) hd]
          refine exec_withRnd b s fun x kk hi => h x kk ?_
          rw [tickInstr_of_decode hf hw hfe hd, hi]

end Tick

/-- Settles O13: a tick commutes with a change of the byte on the port. -/
theorem onlyRndReadsTheRandomByte : Obligations.OnlyRndReadsTheRandomByte := by
  intro s t b hno h
  exact (tick_withRnd b hno).trans (congrArg (answerWithRnd b) h)

/-! ## Sequential instructions that write one register (R150 to R153) -/

/-- The frame of a sequential instruction: the parts it writes, then PC and the result. -/
theorem Unchanged.sequential {C : Part → Prop} {parts : List Part} {s u : State} (hu : Unchanged C s u)
    (hC : ∀ p, C p → p ∈ parts) : Unchanged (· ∈ parts ++ [.pc, .result]) s u.advance.complete :=
  (hu.mono hC).jump _

/-- An instruction whose one effect is a write of `V[x]`: the register, PC, and the frame. -/
theorem setV_advance_complete_ends (x : Reg) (b : Byte) (s : State) :
    (s.setV x b).advance.complete.getV x = b ∧ (s.setV x b).advance.complete.pc = s.pc + 2#16 ∧
      Unchanged (· ∈ [.v x, .pc, .result]) s (s.setV x b).advance.complete :=
  ⟨getV_setV_self s x b, rfl, (unchanged_setV s x b).sequential fun _ => List.mem_singleton.mpr⟩

/-- Settles O19: the written byte is the immediate. -/
theorem ldImmLoadsTheImmediate : Obligations.LdImmLoadsTheImmediate := fun x kk s =>
  ⟨_, rfl, setV_advance_complete_ends x kk s⟩

/-- Settles O20: the written byte is the sum of two bytes, which is taken modulo 256. -/
theorem addImmWrapsWithoutFlag : Obligations.AddImmWrapsWithoutFlag := by
  intro x kk s
  obtain ⟨hv, hpc, hframe⟩ := setV_advance_complete_ends x (s.getV x + kk) s
  exact ⟨_, rfl, by rw [hv, BitVec.toNat_add], hpc, hframe⟩

/-- Settles O21: the address fits in `I`, and 12 bits are at most 4095. -/
theorem ldILoadsTheAddress : Obligations.LdILoadsTheAddress := by
  intro nnn s
  have hi : (absolute nnn).toNat = nnn.toNat := toNat_absolute nnn
  exact ⟨_, rfl, hi, hi.trans_le (Nat.le_of_lt_succ nnn.isLt), rfl,
    (unchanged_setI s _).sequential fun _ => List.mem_singleton.mpr⟩

/-- Settles O22: a bit of the conjunction is 0 where the mask has a 0. -/
theorem rndMasksTheRandomByte : Obligations.RndMasksTheRandomByte := by
  intro x kk s
  obtain ⟨hv, hpc, hframe⟩ := setV_advance_complete_ends x (s.rnd &&& kk) s
  refine ⟨_, rfl, hv, fun n hn => ?_, hpc, hframe⟩
  rw [hv, BitVec.getLsbD_and, hn, Bool.and_false]

end Sys2Proof.Machine

/-! # Proofs: the register-to-register family 8xy_ (43_alu.md): moves and logic (R161 to R164), the five flag
instructions (R165 to R169), and their two writes (R170) -/

namespace Sys2Proof.Machine

section Alu

variable (a b : Byte)

/-! ## The results and the flags as numbers -/

/-- A byte difference wraps modulo 256 (R166, R168). -/
theorem toNat_byte_sub : (a - b).toNat = (a.toNat + 256 - b.toNat) % 256 := by
  rw [BitVec.toNat_sub]
  congr 1
  omega

/-- One place to the right, a 0 coming in (R167). -/
theorem toNat_byte_ushiftRight_one : (a >>> 1).toNat = a.toNat / 2 := by
  rw [BitVec.toNat_ushiftRight, Nat.shiftRight_one]

/-- One place to the left, a 0 coming in (R169). -/
theorem toNat_byte_shiftLeft_one : (a <<< 1).toNat = a.toNat * 2 % 256 := by
  rw [BitVec.toNat_shiftLeft, Nat.shiftLeft_eq, Nat.pow_one]

theorem flagByte_decide (P : Prop) [Decidable P] : flagByte (decide P) = if P then 1#8 else 0#8 := by
  simp only [flagByte, decide_eq_true_eq]

theorem toNat_flagByte (flag : Bool) : (flagByte flag).toNat = if flag then 1 else 0 := by
  cases flag <;> rfl

/-- SHR shifts out the remainder of the halving (R167). -/
theorem toNat_flagByte_shiftedOutRight : (flagByte (shiftedOutRight a)).toNat = a.toNat % 2 := by
  have hbit : shiftedOutRight a = decide (a.toNat % 2 = 1) := Nat.testBit_zero _
  rw [toNat_flagByte, hbit]
  simp only [decide_eq_true_eq]
  split <;> omega

/-- SHL shifts out the top bit (R169): a byte has no bit above it, so it is the whole quotient by 128. -/
theorem toNat_flagByte_shiftedOutLeft : (flagByte (shiftedOutLeft a)).toNat = a.toNat / 128 := by
  have hbit : shiftedOutLeft a = decide (a.toNat / 128 % 2 = 1) := Nat.testBit_eq_decide_div_mod_eq
  have hlt : a.toNat < 256 := a.isLt
  rw [toNat_flagByte, hbit]
  simp only [decide_eq_true_eq]
  split <;> omega

/-! ## What a flag instruction leaves (R170) -/

/-- A destination other than VF keeps the result, and VF the flag. -/
theorem flaggedResult_ends_of_ne {x : Reg} (res : Byte) (flag : Bool) (s : State) (hx : x ≠ regF) :
    ∃ t, flaggedResult x res flag s = .next t ∧ t.getV x = res ∧ t.getV regF = flagByte flag ∧
      t.pc = s.pc + 2#16 ∧ Unchanged (· ∈ [.v x, .v regF, .pc, .result]) s t := by
  have hv := getV_setResultAndFlag_of_ne s params.vfWriteLast res flag hx
  refine ⟨_, rfl, (hv x).trans (if_pos rfl), (hv regF).trans ?_, ?_, ?_⟩
  · rw [if_neg hx.symm, if_pos rfl]
  · rw [complete_pc, advance_pc, setResultAndFlag_pc]
  · exact (unchanged_setResultAndFlag s _ x res flag).sequential (parts := [.v x, .v regF]) (by simp)

/-- With VF as destination the flag is lost: the result, here as a number, is written last (D20). -/
theorem flaggedResult_regF_ends {res : Byte} {n : Nat} (hn : res.toNat = n) (flag : Bool) (s : State) :
    ∃ t, flaggedResult regF res flag s = .next t ∧ (t.getV regF).toNat = n ∧ t.pc = s.pc + 2#16 ∧
      Unchanged (· ∈ [.v regF, .pc, .result]) s t := by
  have hv := getV_setResultAndFlag_regF s params.vfWriteLast res flag regF
  rw [if_pos rfl, params_vfWriteLast, if_neg Bool.false_ne_true] at hv
  refine ⟨_, rfl, hn ▸ congrArg BitVec.toNat hv, ?_, ?_⟩
  · rw [complete_pc, advance_pc, setResultAndFlag_pc]
  · exact (unchanged_setResultAndFlag s _ regF res flag).sequential (parts := [.v regF]) (by simp)

end Alu

/-- Settles O23: each instruction writes V[x] alone, and a logical operation acts bit by bit. -/
theorem movesAndLogicWriteOneRegister : Obligations.MovesAndLogicWriteOneRegister := by
  intro x y s
  obtain ⟨hor, horFrame⟩ := setV_advance_complete_ends x (s.getV x ||| s.getV y) s
  obtain ⟨hand, handFrame⟩ := setV_advance_complete_ends x (s.getV x &&& s.getV y) s
  obtain ⟨hxor, hxorFrame⟩ := setV_advance_complete_ends x (s.getV x ^^^ s.getV y) s
  exact ⟨⟨_, rfl, setV_advance_complete_ends x (s.getV y) s⟩,
    ⟨_, rfl, fun n _ => by rw [hor, BitVec.getLsbD_or], horFrame⟩,
    ⟨_, rfl, fun n _ => by rw [hand, BitVec.getLsbD_and], handFrame⟩,
    ⟨_, rfl, fun n _ => by rw [hxor, BitVec.getLsbD_xor], hxorFrame⟩⟩

/-- Settles O24: the carry is a sum of more than eight bits. -/
theorem addRegSetsCarry : Obligations.AddRegSetsCarry := by
  intro x y s hx
  obtain ⟨t, he, hv, hf, hframe⟩ := flaggedResult_ends_of_ne
    (s.getV x + s.getV y) (carryOut (s.getV x) (s.getV y)) s hx
  exact ⟨t, he, hv ▸ BitVec.toNat_add .., hf.trans (flagByte_decide _), hframe⟩

/-- Settles O25: SUB and SUBN are one subtraction with its operands exchanged. -/
theorem subtractionsSetNotBorrow : Obligations.SubtractionsSetNotBorrow := by
  intro x y s hx
  have sub (a b : Byte) := flaggedResult_ends_of_ne (a - b) (notBorrow a b) s hx
  constructor
  · obtain ⟨t, he, hv, hf, hframe⟩ := sub (s.getV x) (s.getV y)
    exact ⟨t, he, hv ▸ toNat_byte_sub .., hf.trans (flagByte_decide _), hframe⟩
  · obtain ⟨t, he, hv, hf, hframe⟩ := sub (s.getV y) (s.getV x)
    exact ⟨t, he, hv ▸ toNat_byte_sub .., hf.trans (flagByte_decide _), hframe⟩

/-- Settles O26: the shifted byte and the bit shifted out are quotient and remainder. -/
theorem shiftsSetTheBitShiftedOut : Obligations.ShiftsSetTheBitShiftedOut := by
  intro x y s hx
  constructor
  · obtain ⟨t, he, hv, hf, hframe⟩ := flaggedResult_ends_of_ne
      (s.getV x >>> 1) (shiftedOutRight (s.getV x)) s hx
    exact ⟨t, he, hv ▸ toNat_byte_ushiftRight_one _, hf ▸ toNat_flagByte_shiftedOutRight _, hframe⟩
  · obtain ⟨t, he, hv, hf, hframe⟩ := flaggedResult_ends_of_ne
      (s.getV x <<< 1) (shiftedOutLeft (s.getV x)) s hx
    exact ⟨t, he, hv ▸ toNat_byte_shiftLeft_one _, hf ▸ toNat_flagByte_shiftedOutLeft _, hframe⟩

/-- Settles O27: whatever the flag is, VF ends with the result; the last clause is the exchange of the two writes. -/
theorem flagInstructionsOnVf : Obligations.FlagInstructionsOnVf := by
  intro y s
  refine ⟨flaggedResult_regF_ends (BitVec.toNat_add ..) _ s, flaggedResult_regF_ends (toNat_byte_sub ..) _ s,
    flaggedResult_regF_ends (toNat_byte_sub ..) _ s, flaggedResult_regF_ends (toNat_byte_ushiftRight_one _) _ s,
    flaggedResult_regF_ends (toNat_byte_shiftLeft_one _) _ s, fun last res flag => ?_⟩
  rw [getV_setResultAndFlag_regF, if_pos rfl, apply_ite BitVec.toNat, toNat_flagByte]

end Sys2Proof.Machine

/-! # Proofs: display (44_display.md): CLS (R180), and the closed form of the blit and of DRW (R181 to R187) -/

namespace Sys2Proof.Machine

/-- Settles O28: every cell of the blank grid is false. -/
theorem clsClearsEveryCell : Obligations.ClsClearsEveryCell := fun s =>
  ⟨_, rfl, cell_blank, rfl, rfl,
    (((unchanged_setFb s _).comp (unchanged_advance _)).comp (unchanged_complete _)).mono fun p hp => by
      simpa [or_comm, or_left_comm] using hp⟩

/-! ## The blit of at most 15 rows in closed form (R182 to R185) -/

section Blit

variable {startX startY : Byte} {rows : List Byte} {d : Display}

theorem blit_eq_foldl (startX startY : Byte) (rows : List Byte) (d : Display) :
    blit startX startY rows d = (spritePixels 0 rows).foldl (blitStep startX startY) (d, false) :=
  blitRows_eq_foldl startX startY 0 rows (d, false)

/-- A cell is inverted when a pixel 1 lands on it. -/
theorem cell_blit (h : rows.length ≤ 15) (cy : Fin 32) (cx : Fin 64) :
    (blit startX startY rows d).1.cell cy cx = (d.cell cy cx ^^ (spritePixels 0 rows).any fun p =>
      decide (pixelCell startX startY p = (cy, cx)) && spritePixel p.2.2 p.2.1) := by
  rw [blit_eq_foldl]
  exact cell_foldl_blitStep startX startY _ (nodup_pixelCells startX startY rows h) (d, false) cy cx

/-- The cell a pixel lands on is XORed with it: no other pixel lands there (R185). -/
theorem cell_blit_pixelCell (h : rows.length ≤ 15) {p : Nat × Nat × Byte} (hp : p ∈ spritePixels 0 rows) :
    (blit startX startY rows d).1.cell (pixelCell startX startY p).1 (pixelCell startX startY p).2 =
      (d.cell (pixelCell startX startY p).1 (pixelCell startX startY p).2 ^^ spritePixel p.2.2 p.2.1) := by
  rw [cell_blit h]
  congr 1
  rw [Bool.eq_iff_iff]
  simp only [List.any_eq_true, Bool.and_eq_true, decide_eq_true_eq]
  constructor
  · rintro ⟨q, hq, hcell, hbit⟩
    obtain rfl := List.inj_on_of_nodup_map (nodup_pixelCells startX startY rows h) hq hp hcell
    exact hbit
  · exact fun hbit => ⟨p, hp, rfl, hbit⟩

/-- A cell on which no pixel lands is as before. -/
theorem cell_blit_of_forall_ne (h : rows.length ≤ 15) {cy : Fin 32} {cx : Fin 64}
    (hne : ∀ p ∈ spritePixels 0 rows, pixelCell startX startY p ≠ (cy, cx)) :
    (blit startX startY rows d).1.cell cy cx = d.cell cy cx := by
  have hno : ((spritePixels 0 rows).any fun p =>
      decide (pixelCell startX startY p = (cy, cx)) && spritePixel p.2.2 p.2.1) = false := by
    rw [List.any_eq_false]
    intro p hp
    simp [hne p hp]
  rw [cell_blit h, hno, Bool.xor_false]

/-- A collision is a pixel 1 on a cell that was true before the first pixel (R184, R185). -/
theorem blit_collides_iff (h : rows.length ≤ 15) :
    (blit startX startY rows d).2 = true ↔ ∃ p ∈ spritePixels 0 rows,
      d.cell (pixelCell startX startY p).1 (pixelCell startX startY p).2 = true ∧
        spritePixel p.2.2 p.2.1 = true := by
  rw [blit_eq_foldl, collision_foldl_blitStep startX startY _ (nodup_pixelCells startX startY rows h)]
  simp only [Bool.false_or, List.any_eq_true, Bool.and_eq_true]

end Blit

/-- Settles O30: a cell is XORed twice with the same bit. -/
theorem drawingTwiceRestoresTheGrid : Obligations.DrawingTwiceRestoresTheGrid := by
  intro startX startY rows d h
  refine display_ext fun cy cx => ?_
  rw [cell_blit h, cell_blit h, Bool.xor_assoc, Bool.xor_self, Bool.xor_false]

/-! ## DRW (R183) -/

/-- The pixels of the sprite that DRW reads from memory (R181). -/
theorem mem_spritePixels_readBytes {m : Memory} {a n r c : Nat} {b : Byte} :
    (r, c, b) ∈ spritePixels 0 (m.readBytes a n) ↔ r < n ∧ c < 8 ∧ b = m.read (a + r) := by
  rw [mem_spritePixels, List.getElem?_eq_some_iff]
  simp only [Memory.length_readBytes, Memory.getElem_readBytes, exists_prop]
  constructor
  · rintro ⟨hc, hr, hb⟩
    exact ⟨hr, hc, hb.symm⟩
  · rintro ⟨hr, hc, hb⟩
    exact ⟨hc, hr, hb.symm⟩

theorem flagByte_eq_zero_or_one (flag : Bool) : flagByte flag = 0#8 ∨ flagByte flag = 1#8 := by
  cases flag with
  | false => exact .inl rfl
  | true => exact .inr rfl

theorem flagByte_eq_one_iff (flag : Bool) : flagByte flag = 1#8 ↔ flag = true := by
  cases flag <;> simp [flagByte]

/-- DRW with no row out of range: the state after the blit. -/
theorem exec_drw_of_le (x y : Reg) {n : Nibble} {s : State} (h : n.toNat = 0 ∨ s.i.toNat + n.toNat - 1 ≤ 4095) :
    exec (.drw x y n) s = .next (((s.setFb
      (blit (s.getV x) (s.getV y) (s.mem.readBytes s.i.toNat n.toNat) s.fb).1).setV regF
      (flagByte (blit (s.getV x) (s.getV y) (s.mem.readBytes s.i.toNat n.toNat) s.fb).2)).advance.completeDraw) := by
  rcases execDrw_cases x y n s with ⟨hpos, hout, -⟩ | ⟨-, e⟩
  · omega
  · exact e

/-- The frame of a draw: the grid, VF, PC and the result. -/
theorem unchanged_draw (s : State) (d : Display) (b : Byte) :
    Unchanged (fun p => p = .v regF ∨ p = .pc ∨ p = .result ∨ ∃ r c, p = .cell r c) s
      ((s.setFb d).setV regF b).advance.completeDraw :=
  ((((unchanged_setFb s d).comp (unchanged_setV _ regF b)).comp (unchanged_advance _)).comp
    (unchanged_completeDraw _)).mono fun p hp => by
      rcases hp with ((hcell | hv) | hpc) | hres
      · exact .inr (.inr (.inr hcell))
      · exact .inl hv
      · exact .inr (.inl hpc)
      · exact .inr (.inr (.inl hres))

/-- Settles O29: the closed form of the blit, for the sprite that DRW reads. -/
theorem drwXorsTheSprite : Obligations.DrwXorsTheSprite := by
  intro x y n s h
  have hlen : (s.mem.readBytes s.i.toNat n.toNat).length ≤ 15 := by
    rw [Memory.length_readBytes]
    exact Nat.le_of_lt_succ n.isLt
  have hflag (b : Byte) (t : State) : (t.setV regF b).advance.completeDraw.getV regF = b := getV_setV_self t regF b
  refine ⟨_, exec_drw_of_le x y h, fun r c hr hc => ?_, fun cy cx hother => ?_, ?_, ?_, rfl, rfl,
    unchanged_draw s _ _⟩
  · exact cell_blit_pixelCell hlen (mem_spritePixels_readBytes.mpr ⟨hr, hc, rfl⟩)
  · refine cell_blit_of_forall_ne hlen ?_
    rintro ⟨r, c, b⟩ hp hcell
    obtain ⟨hr, hc, -⟩ := mem_spritePixels_readBytes.mp hp
    obtain ⟨rfl, rfl⟩ := Prod.mk.inj hcell
    exact hother r c hr hc ⟨rfl, rfl⟩
  · rw [hflag]
    exact flagByte_eq_zero_or_one _
  · rw [hflag, flagByte_eq_one_iff, blit_collides_iff hlen]
    constructor
    · rintro ⟨⟨r, c, b⟩, hp, hold, hbit⟩
      obtain ⟨hr, hc, rfl⟩ := mem_spritePixels_readBytes.mp hp
      exact ⟨r, c, hr, hc, hold, hbit⟩
    · rintro ⟨r, c, hr, hc, hold, hbit⟩
      exact ⟨(r, c, _), mem_spritePixels_readBytes.mpr ⟨hr, hc, rfl⟩, hold, hbit⟩

end Sys2Proof.Machine

/-! # Proofs: keypad (45_keypad.md): the key skips (R190, R191), and the entering tick of the wait (R194) -/

namespace Sys2Proof.Machine

section KeySkip

variable {x : Reg} {s : State} {k : Fin 16}

/-- SKP with an index of at most 15. -/
theorem exec_skp_of_index (h : (s.getV x).toNat = k.val) :
    exec (.skp x) s = .next (s.skipIf (s.keyDown k)).complete := by
  rcases execSkp_cases x s with ⟨hlt, e⟩ | ⟨hgt, -⟩
  · obtain rfl : ⟨(s.getV x).toNat, hlt⟩ = k := Fin.ext h
    exact e
  · omega

/-- SKNP with an index of at most 15. -/
theorem exec_sknp_of_index (h : (s.getV x).toNat = k.val) :
    exec (.sknp x) s = .next (s.skipIf (!s.keyDown k)).complete := by
  rcases execSknp_cases x s with ⟨hlt, e⟩ | ⟨hgt, -⟩
  · obtain rfl : ⟨(s.getV x).toNat, hlt⟩ = k := Fin.ext h
    exact e
  · omega

end KeySkip

/-- Settles O31: SKP skips on the key flag, SKNP on its negation. -/
theorem keySkipsFollowTheKey : Obligations.KeySkipsFollowTheKey := by
  refine fun x s k h => ⟨⟨_, exec_skp_of_index h, skipIf_complete_ends Iff.rfl⟩, _, exec_sknp_of_index h, ?_⟩
  obtain ⟨hpc, hframe⟩ := skipIf_complete_ends (s := s) (P := ¬ s.keyDown k = true) Bool.not_iff_not
  exact ⟨hpc.trans (ite_not ..), hframe⟩

/-- Settles O32: the frame is that of `beginWait`, which samples the keypad and leaves PC alone, and the result. -/
theorem keyWaitBegins : Obligations.KeyWaitBegins := fun x s =>
  ⟨_, rfl, rfl, rfl, rfl, rfl, ((unchanged_beginWait s x).comp (unchanged_complete _)).mono fun p hp => by
    simpa [or_assoc] using hp⟩

end Sys2Proof.Machine

/-! # Proofs: F family (46_misc_f.md): the timer loads (R200 to R202), index arithmetic (R203, R204), the decimal digits
(R206), and the register store and load at the index register (R207, R208) -/

namespace Sys2Proof.Machine

section MiscF

variable {s : State} {x : Reg}

/-! ## The computed operands as numbers (R203, R204, R206) -/

theorem toNat_indexSum (w : Word) (a : Byte) : (indexSum w a).toNat = (w.toNat + a.toNat) % 65536 :=
  BitVec.toNat_ofNat ..

/-- The largest product, 1275, fits in `I`. -/
theorem toNat_glyphAddress (a : Byte) : (glyphAddress a).toNat = a.toNat * 5 := by
  have := a.isLt
  exact (BitVec.toNat_ofNat ..).trans (Nat.mod_eq_of_lt (show a.toNat * 5 < 65536 by omega))

/-- Each digit fits in a byte. -/
theorem map_toNat_bcdDigits (a : Byte) :
    (bcdDigits a).map BitVec.toNat = [a.toNat / 100, a.toNat / 10 % 10, a.toNat % 10] := by
  have := a.isLt
  simp only [bcdDigits, List.map_cons, List.map_nil, BitVec.toNat_ofNat, List.cons.injEq, and_true]
  omega

/-! ## The beep of a tick that draws nothing (R118, R239) -/

theorem complete_beeps_of_pos (h : 0 < s.st.toNat) :
    s.complete.result = .ok .beep ∧ portBeep s.complete = true :=
  ⟨congrArg TickResult.ok (if_pos h), decide_eq_true h⟩

theorem complete_silent_of_zero (h : s.st.toNat = 0) :
    s.complete.result = .ok .nothing ∧ portBeep s.complete = false :=
  ⟨congrArg TickResult.ok (if_neg h.not_gt), decide_eq_false h.not_gt⟩

/-! ## Stores and loads at the index register (R205) -/

/-- The frame of a sequential instruction that writes the parts of `C`. -/
theorem Unchanged.advance_complete {C : Part → Prop} {u : State} (hu : Unchanged C s u) :
    Unchanged (fun p => p = .pc ∨ p = .result ∨ C p) s u.advance.complete :=
  ((hu.comp (unchanged_advance u)).comp (unchanged_complete _)).mono fun p hp => by
    rcases hp with (hC | hpc) | hres
    · exact .inr (.inr hC)
    · exact .inl hpc
    · exact .inr (.inl hres)

/-- The frame of a store whose last byte is at `I + last`. -/
theorem unchanged_store {bytes : List Byte} {last : Nat} (hlen : bytes.length = last + 1) :
    Unchanged (fun p => p = .pc ∨ p = .result ∨ ∃ k, k ≤ last ∧ p = .mem (s.i.toNat + k)) s
      (s.setMem (s.mem.writeBytes s.i.toNat bytes)).advance.complete :=
  ((unchanged_writeBytes s _ bytes).mono fun _ ⟨k, hk, hp⟩ =>
    ⟨k, Nat.le_of_lt_succ (hk.trans_eq hlen), hp⟩).advance_complete

/-- Fx33 with its three bytes in range (R206). -/
theorem exec_ldBVx_of_le (hle : s.i.toNat + 2 ≤ 4095) :
    exec (.ldBVx x) s =
      .next (s.setMem (s.mem.writeBytes s.i.toNat (bcdDigits (s.getV x)))).advance.complete := by
  rcases storeAtIndex_cases (.ldBVx x) (bcdDigits (s.getV x)) s with ⟨hgt, -⟩ | ⟨-, e⟩
  · rw [length_bcdDigits] at hgt
    omega
  · exact e

/-- After the digits of `a` are stored from `base` on, the digit of each place is read at its offset. -/
theorem toNat_read_writeBytes_bcdDigits {m : Memory} {base k : Nat} (a : Byte) (hc : m.wf = true)
    (hle : base + 2 ≤ 4095) (hk : k < 3) :
    ((m.writeBytes base (bcdDigits a)).read (base + k)).toNat =
      [a.toNat / 100, a.toNat / 10 % 10, a.toNat % 10][k] := by
  have hlen := length_bcdDigits a
  rw [Memory.read_writeBytes_inside hc (by omega) (hk.trans_eq hlen.symm),
    ← List.getElem_map BitVec.toNat (h := by simpa using hk)]
  simp only [map_toNat_bcdDigits]

/-- Fx65 with its bytes in range (R208). -/
theorem exec_ldVxMem_of_le (hle : s.i.toNat + x.toNat ≤ 4095) :
    exec (.ldVxMem x) s = .next (s.loadV x s.i.toNat).advance.complete := by
  rcases execLdVxMem_cases x s with ⟨hgt, -⟩ | ⟨-, e⟩
  · omega
  · exact e

end MiscF

/-- Settles O41: a register up to `x` is read back from where it was stored, and the load leaves the others alone. -/
theorem loadAfterStoreRestores : Obligations.LoadAfterStoreRestores := by
  intro x s hc hle
  refine ⟨_, _, exec_ldMemVx_of_le hle, exec_ldVxMem_of_le hle, v_ext fun r => ?_, rfl⟩
  refine (getV_loadV _ x r s.i.toNat).trans ?_
  split
  next hr => exact read_writeBytes_vUpTo hc hle hr
  next => rfl

/-- Settles O34: the written byte is the count, and DT is not among the parts written. -/
theorem ldVxDtReadsTheDelayTimer : Obligations.LdVxDtReadsTheDelayTimer := fun x s =>
  ⟨_, rfl, setV_advance_complete_ends x s.dt s⟩

/-- Settles O35: the signal is taken from the ST just written. -/
theorem timerLoadsWriteTheTimer : Obligations.TimerLoadsWriteTheTimer := fun x s =>
  ⟨⟨_, rfl, rfl, rfl, (unchanged_setDt s (s.getV x)).sequential fun _ => List.mem_singleton.mpr⟩,
    ⟨_, rfl, rfl, rfl, complete_beeps_of_pos (s := (s.setSt (s.getV x)).advance),
      complete_silent_of_zero (s := (s.setSt (s.getV x)).advance),
      (unchanged_setSt s (s.getV x)).sequential fun _ => List.mem_singleton.mpr⟩⟩

/-- Settles O36: the sum is reduced to the 16 bits of `I`. -/
theorem addIWrapsWithoutFlag : Obligations.AddIWrapsWithoutFlag := fun x s =>
  ⟨_, rfl, toNat_indexSum s.i (s.getV x), rfl, (unchanged_setI s _).sequential fun _ => List.mem_singleton.mpr⟩

/-- Settles O37: the product of a byte and 5 needs no reduction. -/
theorem ldFMultipliesByFive : Obligations.LdFMultipliesByFive := fun x s =>
  ⟨_, rfl, toNat_glyphAddress (s.getV x), rfl, (unchanged_setI s _).sequential fun _ => List.mem_singleton.mpr⟩

/-- Settles O38: the three digits, each read at its offset. -/
theorem bcdStoresThreeDigits : Obligations.BcdStoresThreeDigits := by
  intro x s hc hle
  have hread {k : Nat} (hk : k < 3) := toNat_read_writeBytes_bcdDigits (s.getV x) hc hle hk
  exact ⟨_, exec_ldBVx_of_le hle, hread (k := 0) (by decide), hread (k := 1) (by decide),
    hread (k := 2) (by decide), rfl, unchanged_store (length_bcdDigits _)⟩

/-- Settles O39: `x + 1` registers are stored, each read back at its offset. -/
theorem storeWritesRegistersUpToX : Obligations.StoreWritesRegistersUpToX := fun x s hc hle =>
  ⟨_, exec_ldMemVx_of_le hle, fun _ => read_writeBytes_vUpTo hc hle, rfl, unchanged_store (length_vUpTo s x)⟩

/-- Settles O40: the register file after `loadV`, read one register at a time. -/
theorem loadReadsRegistersUpToX : Obligations.LoadReadsRegistersUpToX := fun x s hle =>
  ⟨_, exec_ldVxMem_of_le hle, fun r hr => (getV_loadV s x r s.i.toNat).trans (if_pos hr), rfl,
    (unchanged_loadV s x s.i.toNat).advance_complete⟩

end Sys2Proof.Machine

/-! # Proofs: timer countdown (47_timer_countdown.md): one timer event (R221), a row of them (R222), and DT along a
run (R226) -/

namespace Sys2Proof.Machine

/-- Settles O43: both new values are the countdown of the old ones. -/
theorem timersCountDownToZero : Obligations.TimersCountDownToZero := fun s =>
  ⟨toNat_countDown s.dt, toNat_countDown s.st, (unchanged_advanceTimers s).mono fun p hp => by simpa using hp⟩

/-- Settles O44, by induction on the number of events: one more event is one more truncated subtraction of 1. -/
theorem timersReachZeroAndStay : Obligations.TimersReachZeroAndStay := by
  intro s k
  induction k with
  | zero => exact ⟨rfl, rfl⟩
  | succ k ih =>
    obtain ⟨hdt, hst⟩ := ih
    rw [Function.iterate_succ_apply', ← Nat.sub_sub, ← Nat.sub_sub, ← hdt, ← hst]
    exact ⟨toNat_countDown _, toNat_countDown _⟩

/-! ## DT over one step (R24) -/

section DelayTimer

variable {s t : State}

/-- Only Fx15 writes DT. -/
theorem writes_dt {i : Instr} (h : Instr.writes s i .dt) : ∃ x, i = .ldDtVx x := by
  cases i <;> simp_all [Instr.writes]

theorem tickMayChange_dt (h : tickMayChange s .dt) : ∃ x, tickInstr s = some (.ldDtVx x) := by
  obtain ⟨-, h⟩ := h
  cases hw : s.waiting with
  | true => simp [hw] at h
  | false =>
    cases hi : tickInstr s with
    | none => simp [hw, hi] at h
    | some i =>
      obtain ⟨-, hwr⟩ : executeFault s i = none ∧ Instr.writes s i .dt := by simpa [hw, hi] using h
      obtain ⟨x, rfl⟩ := writes_dt hwr
      exact ⟨x, rfl⟩

/-- The events that may change DT (R33). -/
theorem mayChange_dt (h : mayChange s (nextEvent s) .dt) :
    nextEvent s = .advanceTimers ∨ (∃ p, nextEvent s = .resetLoad p) ∨ ∃ x, executed s = some (.ldDtVx x) := by
  unfold executed
  cases hev : nextEvent s with
  | advanceTimers => exact .inl rfl
  | resetLoad p => exact .inr (.inl ⟨p, rfl⟩)
  | tick b => exact .inr (.inr (tickMayChange_dt (by simpa [hev, mayChange] using h)))
  | setKey k b => simp [hev, mayChange] at h

theorem step_advanceTimers_dt (h : step s = .next t) (hev : nextEvent s = .advanceTimers) :
    t.dt = countDown s.dt := by
  obtain ⟨es, rfl⟩ : ∃ es, t = advanceTimers { s with pending := es } := by simpa [hev] using step_cases h
  rfl

/-- A step that neither resets nor executes Fx15 lowers DT by the number of its timer events, one or none. -/
theorem step_dt (h : step s = .next t) (hreset : ∀ p, nextEvent s ≠ .resetLoad p)
    (hload : ∀ x, executed s ≠ some (.ldDtVx x)) :
    t.dt.toNat = s.dt.toNat - if nextEvent s = .advanceTimers then 1 else 0 := by
  split
  next hev => rw [step_advanceTimers_dt h hev, toNat_countDown]
  next hev =>
    have hsame : t.dt = s.dt := step_frame h .dt fun hc => by
      rcases mayChange_dt hc with he | ⟨p, he⟩ | ⟨x, he⟩
      · exact hev he
      · exact hreset p he
      · exact hload x he
    rw [hsame, Nat.sub_zero]

end DelayTimer

/-- Settles O45, by induction on the number of steps: the last step adds its own timer event, if it is one, to those
counted so far. -/
theorem delayTimerCountsTimerEvents : Obligations.DelayTimerCountsTimerEvents := by
  intro run k hstep hev
  induction k with
  | zero => rfl
  | succ k ih =>
    have hk := Nat.lt_succ_self k
    obtain ⟨hreset, hload⟩ := hev k hk
    have hprev := ih (fun j hj => hstep j (hj.trans hk)) fun j hj => hev j (hj.trans hk)
    rw [step_dt (hstep k hk) hreset hload, hprev, Nat.sub_sub, List.range_succ, List.filter_append,
      List.length_append]
    split_ifs with hlast <;> simp [hlast]

end Sys2Proof.Machine

/-! # Proofs: exceptions (60_exceptions.md): the fault an instruction and a tick raise (R250 to R261), that it is
precise (R252), and that the latch shows nothing else (R254) -/

namespace Sys2Proof.Machine

/-! ## The execute phase latches exactly the fault of R261 -/

section ExecuteFault

variable {i : Instr} {s t : State}

/-- An instruction that completes writes no latch (R33). -/
theorem not_writes_fault (s : State) (i : Instr) : ¬ Instr.writes s i .fault := by
  cases i <;> simp [Instr.writes]

theorem Completes.fault (h : Completes i s t) : t.fault = s.fault :=
  h.frame .fault (by simpa using not_writes_fault s i)

theorem exec_of_executeFault {kind : FaultKind} {addr : Option Nat} (h : executeFault s i = some (kind, addr)) :
    exec i s = .next (s.raiseIn kind (encode i) addr) := by
  obtain ⟨t, e, hc | ⟨kind', addr', h', rfl⟩⟩ := exec_ends i s
  · cases hc.noFault.symm.trans h
  · cases h'.symm.trans h
    exact e

end ExecuteFault

/-- Settles O50: an instruction that completes leaves the latch alone, and any other raises the fault listed for it. -/
theorem executeFaultsExactlyAsListed : Obligations.ExecuteFaultsExactlyAsListed := by
  intro i s hf
  obtain ⟨t, e, hends⟩ := exec_ends i s
  refine ⟨t, e, fun hno => ?_, fun kind addr hx => ?_⟩
  · rcases hends with hc | ⟨kind, addr, hx, -⟩
    · exact hc.fault.trans hf
    · cases hno.symm.trans hx
  · cases e.symm.trans (exec_of_executeFault hx)
    exact faultsWith_raise s _

/-! ## The fault of a tick as a function of the state -/

/-- The record that a tick outside the wait raises when no fault is latched, by the phase that fails (R255, R256,
R261). It reads PC, memory, the registers, `I` and the depth of the stack, and not the latch. -/
def tickFault (s : State) : Option FaultRecord :=
  match fetch s with
  | .error a => some ⟨.memoryOutOfBounds, some s.pc, none, some a⟩
  | .ok w =>
    match decodeWord w with
    | .error _ => some ⟨.invalidOpcode, some s.pc, some w, none⟩
    | .ok i => (executeFault s i).map fun (kind, addr) => ⟨kind, some s.pc, some (encode i), addr⟩

section TickFault

variable {s t : State} {r : FaultRecord}

/-- Every record names the PC (R251). -/
theorem tickFault_pc (h : tickFault s = some r) : r.pc = some s.pc := by
  unfold tickFault at h
  split at h
  · cases h; rfl
  · split at h
    · cases h; rfl
    · obtain ⟨f, -, rfl⟩ := Option.map_eq_some_iff.mp h
      rfl

/-- Outside the wait and with no latch, a tick raises `tickFault`, or it latches nothing. -/
theorem tick_ends (hf : s.fault = none) (hw : s.waiting = false) :
    (∃ r, tickFault s = some r ∧ tick s = .next (s.raise r)) ∨
    (∃ t, tickFault s = none ∧ tick s = .next t ∧ t.fault = none) := by
  cases hfe : fetch s with
  | error a => exact .inl ⟨_, by simp only [tickFault, hfe], tick_of_fetch_error hf hw hfe⟩
  | ok w =>
    cases hd : decodeWord w with
    | error e => exact .inl ⟨_, by simp only [tickFault, hfe, hd], tick_of_decode_error hf hw hfe hd⟩
    | ok i =>
      simp only [tickFault, hfe, hd, tick_of_decode hf hw hfe hd]
      obtain ⟨t, e, hc | ⟨kind, addr, hx, rfl⟩⟩ := exec_ends i s
      · exact .inr ⟨t, by rw [hc.noFault]; rfl, e, hc.fault.trans hf⟩
      · exact .inl ⟨_, by rw [hx]; rfl, e⟩

theorem tick_eq_raise_iff (hf : s.fault = none) (hw : s.waiting = false) :
    tick s = .next (s.raise r) ↔ tickFault s = some r := by
  have latch {t : State} (h : Host.Outcome.next t = (.next (s.raise r) : Answer)) : t.fault = some r :=
    congrArg State.fault (Host.Outcome.next.inj h)
  rcases tick_ends hf hw with ⟨r', hr, e⟩ | ⟨t, hr, e, ht⟩ <;> rw [e, hr]
  · exact ⟨latch, fun h => by rw [Option.some.inj h]⟩
  · exact ⟨fun h => (by cases ht.symm.trans (latch h)), nofun⟩

/-- A tick that sets the latch raises `tickFault`: the wait sets no latch. -/
theorem tick_latches (hf : s.fault = none) (h : tick s = .next t) (ht : t.fault = some r) :
    s.waiting = false ∧ tickFault s = some r ∧ t = s.raise r := by
  cases hw : s.waiting with
  | true =>
    cases (tick_of_waiting hf hw).symm.trans h
    cases ((waitTick_fault s).trans hf).symm.trans ht
  | false =>
    rcases tick_ends hf hw with ⟨r', hr, e⟩ | ⟨t', -, e, ht'⟩ <;> cases e.symm.trans h
    · cases ht
      exact ⟨rfl, hr, rfl⟩
    · cases ht'.symm.trans ht

/-- With the latch cleared, the tick raises the fault again exactly when it is the fault of the state. -/
theorem latchReproducible_iff (s : State) :
    s.latchReproducible ↔ ∀ r, s.fault = some r → r.kind ≠ .programTooLarge →
      s.waiting = false ∧ tickFault s = some r := by
  refine forall_congr' fun r => forall_congr' fun hr => forall_congr' fun _ => and_congr_right fun hw => ?_
  have hsame : ({ s with result := .fault r } : State) = State.raise { s with fault := none } r := by
    rw [State.raise, ← hr]
  rw [hsame]
  exact tick_eq_raise_iff (s := { s with fault := none }) rfl hw

end TickFault

/-! ## The latch shows nothing the state does not (R254) -/

theorem tick_keeps_latchReproducible {s t : State} (hl : s.latchReproducible) (h : tick s = .next t) :
    t.latchReproducible := by
  rw [latchReproducible_iff] at hl ⊢
  cases hf : s.fault with
  | some r =>
    cases (tick_of_latched hf).symm.trans h
    exact hl
  | none =>
    intro r ht _
    obtain ⟨hw, hr, rfl⟩ := tick_latches hf h ht
    exact ⟨hw, hr⟩

/-- A reset leaves no fault but that of a failed load. -/
theorem resetLoad_latchReproducible (program : List Byte) (s : State) :
    (resetLoad program s).latchReproducible := by
  intro r hr hkind
  rcases resetLoad_cases program s with ⟨-, e⟩ | ⟨-, e⟩ <;> rw [e] at hr <;> cases hr
  exact absurd rfl hkind

/-- Settles O60, by the event of the step: a tick latches the fault of the state it leaves, the other events short of
a reset change nothing that `tickFault` reads, and a reset latches at most a failed load. -/
theorem stepKeepsLatchReproducible : Obligations.StepKeepsLatchReproducible := by
  intro s t hl h
  have hl' := (latchReproducible_iff s).mp hl
  rcases step_cases h with ⟨b, c, es, -, ht⟩ | ⟨es, -, rfl⟩ | ⟨k, b, es, -, rfl⟩ | ⟨program, es, -, rfl⟩
  · exact tick_keeps_latchReproducible
      ((latchReproducible_iff { s with rnd := b, rndCount := c, pending := es }).mpr hl') ht
  · exact (latchReproducible_iff _).mpr hl'
  · exact (latchReproducible_iff _).mpr hl'
  · exact resetLoad_latchReproducible program _

/-- Settles O53: the record a tick latches is `tickFault`, and raising it changes nothing else. -/
theorem faultsArePrecise : Obligations.FaultsArePrecise := by
  intro s t r hf h ht
  obtain ⟨hw, hr, rfl⟩ := tick_latches hf h ht
  exact ⟨hw, faultsWith_raise s r, tickFault_pc hr⟩

/-- Settles O51: the decoder rejects a word that no row covers (R90). -/
theorem invalidWordIsReported : Obligations.InvalidWordIsReported := by
  intro s w hf hw hfe hnone
  obtain ⟨-, hinvalid⟩ := decoderAgreesWithOpcodeMap w
  exact ⟨_, tick_of_decode_error hf hw hfe (hinvalid hnone), faultsWith_raise s _⟩

end Sys2Proof.Machine

/-! # Proofs: host interface (48_host_interface.md): one event per step (R230), set_key (R234) and the parked core
(R243) -/

namespace Sys2Proof.Machine

theorem tick_has_next (s : State) : ∃ t, tick s = .next t := by
  cases hf : s.fault with
  | some r => exact ⟨_, tick_of_latched hf⟩
  | none =>
    cases hw : s.waiting with
    | true => exact ⟨_, tick_of_waiting hf hw⟩
    | false =>
      rcases tick_ends hf hw with ⟨r, -, e⟩ | ⟨t, -, e, -⟩
      · exact ⟨_, e⟩
      · exact ⟨t, e⟩

/-- Settles O9, by the event the step takes: a tick ends in every phase, and the other events are functions. -/
theorem everyStepHasANextState : Obligations.EveryStepHasANextState := by
  intro s
  cases hp : s.pending with
  | nil =>
    rw [step_of_nil hp]
    exact tick_has_next _
  | cons e es =>
    rw [step_of_cons hp]
    cases e with
    | tick b => exact tick_has_next _
    | resetLoad | advanceTimers | setKey => exact ⟨_, rfl⟩

/-- Settles O8: each clause is the step on a list that begins with its event. -/
theorem stepTakesTheNextHostEvent : Obligations.StepTakesTheNextHostEvent := fun _ _ =>
  ⟨step_of_cons, fun _ _ => step_of_cons, fun _ => step_of_cons, fun _ => step_of_cons⟩

/-- Settles O46: the 4-bit port names every one of the 16 keys. -/
theorem setKeySetsOneFlag : Obligations.SetKeySetsOneFlag := by
  intro s k b
  have hindex : (BitVec.ofNat 4 k.val).toNat = k.val := Nat.mod_eq_of_lt k.isLt
  constructor
  · simp only [setKey, hindex, Vector.getElem_set_self]
  · refine (unchanged_setKey s _ b).mono ?_
    rintro p ⟨j, rfl, hj⟩
    exact List.mem_singleton.mpr (congrArg Part.key (Fin.ext (hj.trans hindex)))

/-- A jump to the address it stands at leaves PC as it is (R132). -/
theorem exec_jp_self {nnn : Addr} {s : State} (h : nnn.toNat = s.pc.toNat) : exec (.jp nnn) s = .next s.complete := by
  have hpc : absolute nnn = s.pc := BitVec.eq_of_toNat_eq ((toNat_absolute nnn).trans h)
  change Host.Outcome.next (s.setPc (absolute nnn)).complete = _
  rw [hpc]
  rfl

/-- Settles O55: the tick executes the jump at PC, which ends with `complete` alone. -/
theorem parkedCoreStays : Obligations.ParkedCoreStays := by
  rintro s ⟨hf, hw, nnn, hnnn, hfe⟩
  exact ⟨s.complete, (tick_of_decode hf hw hfe (decodeWord_encode _)).trans (exec_jp_self hnnn),
    ⟨hf, hw, nnn, hnnn, hfe⟩, (unchanged_complete s).mono fun _ => List.mem_singleton.mpr⟩

end Sys2Proof.Machine

/-! # Proofs: reset (70_reset_and_hazards.md): what a load leaves (R270, R271), and a program too large (R272) -/

namespace Sys2Proof.Machine

/-! ## Memory after a load (R53, R55) -/

/-- The contents of memory at reset are the font and zeros (R53). -/
theorem some_memory_initial {a : Nat} (h : a < 80) : some (Memory.initial a) = params.font[a]? := by
  have hlen : a < params.font.length := h
  rw [Memory.initial, if_pos (by simpa using h), List.getElem?_eq_getElem hlen]
  exact congrArg some (List.getD_eq_getElem _ _ hlen)

theorem memory_initial_of_ge {a : Nat} (h : 80 ≤ a) : Memory.initial a = 0#8 :=
  if_neg (by simpa using h)

section ResetLoad

variable {program : List Byte}

theorem resetLoad_of_le (s : State) (h : program.length ≤ 3584) :
    resetLoad program s = { State.reset with
      rndCount := s.rndCount, pending := s.pending, mem := programCells Config.programBase program } := by
  rcases resetLoad_cases program s with ⟨-, e⟩ | ⟨hgt, -⟩
  · exact e
  · omega

theorem resetLoad_of_gt (s : State) (h : 3584 < program.length) :
    resetLoad program s = State.raise (resetLoad [] s) ⟨.programTooLarge, none, none, some program.length⟩ := by
  rcases resetLoad_cases program s with ⟨hle, -⟩ | ⟨-, e⟩
  · omega
  · exact e

/-- Outside the program, memory after a load is as at reset. -/
theorem read_programCells_outside {a : Nat} (h : a < 0x200 ∨ 0x200 + program.length ≤ a) :
    (programCells Config.programBase program).read a = Memory.initial a := by
  rw [read_programCells, dif_neg (by simp only [Config.programBase]; omega)]

theorem read_programCells_inside {j : Nat} (h : j < program.length) :
    (programCells Config.programBase program).read (0x200 + j) = program[j] := by
  rw [read_programCells, dif_pos (by simp only [Config.programBase]; omega)]
  simp only [Config.programBase, Nat.add_sub_cancel_left]

end ResetLoad

/-- Settles O47: the font lies below the program. -/
theorem resetLoadsFontPcAndProgram : Obligations.ResetLoadsFontPcAndProgram := by
  intro s program hle
  rw [resetLoad_of_le s hle]
  refine ⟨rfl, fun a ha => ?_, fun j hj => read_programCells_inside hj⟩
  rw [read_programCells_outside (.inl (by omega)), some_memory_initial ha]

/-- Settles O48: the parts that the load does not write are those of the reset state. -/
theorem resetClearsTheRest : Obligations.ResetClearsTheRest := by
  intro s program hle
  have hcanonical := resetLoad_memoryCanonical program s
  rw [resetLoad_of_le s hle] at hcanonical ⊢
  refine ⟨fun a ha hout => ?_, fun r => Vector.getElem_replicate _, rfl, rfl, rfl, rfl,
    fun k => Vector.getElem_replicate _, cell_blank, rfl, rfl, fun k => Vector.getElem_replicate _, rfl, rfl,
    hcanonical⟩
  rw [read_programCells_outside hout, memory_initial_of_ge ha]

/-- Settles O49: the failed load is the load of the empty program with its fault raised. -/
theorem tooLargeProgramIsRefused : Obligations.TooLargeProgramIsRefused := by
  rintro s t program hgt rfl
  have hload := resetLoad_of_gt s hgt
  have hfault : (resetLoad program s).fault = some ⟨.programTooLarge, none, none, some program.length⟩ := by
    rw [hload]; rfl
  refine ⟨hfault, by rw [hload]; rfl, fun a ha => ?_, tick_of_latched hfault⟩
  rw [hload]
  exact memory_initial_of_ge (by omega)

/-- Settles O56: memory at reset lists no byte, the core does not wait, the stack is empty and no fault is latched. -/
theorem resetMeetsTheInvariants : Obligations.ResetMeetsTheInvariants := by
  refine ⟨wf_reset, waitConsistent_of_not_waiting rfl, ⟨by decide, fun k hk => ?_⟩, fun r hr => ?_⟩
  · exact absurd hk (Nat.not_lt_zero _)
  · cases hr

end Sys2Proof.Machine
